-- ==== Sys2Proof/Word.lean ====
section
/-! DEFINITION. The word types: the 32-bit bus word and `u32` (00_scope.md R7), a byte lane (20_memory.md
R63), and the container of a binary32 value (00_scope.md R9, R12). -/

namespace Sys2Proof

/-- A 32-bit bus word, and the value of a `u32` register (R7, R12). -/
abbrev Word := BitVec 32

/-- One byte lane of a bus word (R63). -/
abbrev Byte := BitVec 8

/-- A binary32 value, held as its 32-bit layout: bit 31 the sign, bits 30:23 the exponent, bits 22:0 the
fraction (R11). A type of its own, so that a word's arithmetic is never taken for a value's. -/
structure F32 where
  /-- The layout word. -/
  bits : BitVec 32
deriving DecidableEq, Repr, Inhabited

/-- `+0`. -/
def F32.zero : F32 := ⟨0#32⟩

/-- A complex sample `(zI, zQ)` over a numeric domain (R10). -/
structure Cx (R : Type) where
  /-- In-phase (real) part. -/
  i : R
  /-- Quadrature (imaginary) part. -/
  q : R
deriving DecidableEq, Repr

end Sys2Proof
end

