-- ==== Sys2Proof/Config.lean ====
section
/-! DEFINITION. What an implementation fixes (00_scope.md R6) and the values the spec leaves open: `TRANS`,
`BASE`, and the free values of the assumption log. A free value is an opaque constant: nothing can be proved
of which value it is. -/

namespace Sys2Proof.Config

/-- Largest interpolator tap count (R6). -/
abbrev maxK : Nat := 32

/-- Capacity of the interpolator window array (R6). -/
abbrev maxWlen : Nat := 64

/-- Capacity of the secondary window array (R6). -/
abbrev maxSlen : Nat := 8

/-- Largest windowed-sinc phase count (R6). -/
abbrev maxNph : Nat := 256

/-- Capacity of the constellation table (R6). -/
abbrev maxM : Nat := 64

/-- Size of the register window in bytes (10_state.md R46). -/
abbrev windowBytes : Nat := 4096

/-- The platform's choice of where the window sits, in units of the window's size (20_memory.md R61). OPEN:
92_eei_decisions.md D40. Log 3. -/
opaque basePage : Nat

/-- `BASE`, a multiple of 4096 (20_memory.md R61). -/
def base : Nat := windowBytes * basePage

/-- `TRANS.exp` on binary32, an uninterpreted total function (R9). OPEN: D39. Log 7. -/
opaque exp : F32 → F32

/-- `TRANS.sin` on binary32 (R9). OPEN: D39. Log 7. -/
opaque sin : F32 → F32

/-- `TRANS.cos` on binary32 (R9). OPEN: D39. Log 7. -/
opaque cos : F32 → F32

/-- `TRANS.atan2 y x` on binary32 (R9). OPEN: D39. Log 7. -/
opaque atan2 : F32 → F32 → F32

/-- The operations that can deliver a NaN of their own. -/
inductive NanSource where
  /-- An addition. -/
  | add
  /-- A subtraction. -/
  | sub
  /-- A multiplication. -/
  | mul
  /-- A division. -/
  | div
  /-- A rounding to an integer. -/
  | floor
deriving DecidableEq, Repr

/-- Free: the layout an operation proposes for the NaN it delivers on its operands. Log 6. -/
opaque nanBits : NanSource → F32 → F32 → F32

/-- Free: a phase index for a `tau` that is not in `[0, 1]`, which R107 does not give. Log 10. -/
opaque freeIndex {R : Type} (tau : R) : Nat

end Sys2Proof.Config
end

