-- ==== Sys2Proof/Syntax.lean ====
section
/-! DEFINITION. The commands (30_encoding.md R83; every row of the opcode table) and the transactions a host
issues (20_memory.md R62). No command carries an operand field (R82): operands are registers. -/

namespace Sys2Proof

/-- The commands of the core, one constructor per row of the opcode table (R83). -/
inductive Instr where
  /-- `NOP` (46_control.md R240). -/
  | nop
  /-- `CR_CONFIG` (42_clock_recovery.md R150). -/
  | crConfig
  /-- `CR_RESET` (42_clock_recovery.md R156). -/
  | crReset
  /-- `CR_PUSH` (42_clock_recovery.md R157). -/
  | crPush
  /-- `ITRP_COEF` (40_interpolator.md R108). -/
  | itrpCoef
  /-- `ITRP_EVAL` (40_interpolator.md R109). -/
  | itrpEval
  /-- `TED_EVAL` (41_ted.md R137). -/
  | tedEval
  /-- `PLL_CONFIG` (45_carrier_pll.md R220). -/
  | pllConfig
  /-- `PLL_RESET` (45_carrier_pll.md R222). -/
  | pllReset
  /-- `PLL_PUSH` (45_carrier_pll.md R224). -/
  | pllPush
  /-- `PED_EVAL` (43_ped.md R185). -/
  | pedEval
  /-- `LF_STEP` (44_loop_filter_nco.md R203). -/
  | lfStep
  /-- `NCO_STEP` (44_loop_filter_nco.md R206). -/
  | ncoStep
  /-- `CORE_RESET` (46_control.md R241). -/
  | coreReset
deriving DecidableEq, Repr

/-- One thing the environment does to the core: a bus transaction at a host byte address that the platform
has routed to the core (20_memory.md R61, R62), or a pulse of the reset input (70_reset_and_hazards.md
R280). Widths other than 4 bytes are what R62 calls a narrower or wider access. Log 1, 12, 16. -/
inductive HostTxn where
  /-- `MemRead(addr, nbytes)`. -/
  | read (addr : Nat) (nbytes : Nat)
  /-- `MemWrite(addr, nbytes, data)`. -/
  | write (addr : Nat) (nbytes : Nat) (data : Word)
  /-- The reset input is asserted and released. -/
  | resetPulse
deriving DecidableEq, Repr

end Sys2Proof
end

