-- ==== Sys2Proof/Machine/State.lean ====
section
/-! DEFINITION. The state of the core (10_state.md), as plain data over a numeric domain `R` (00_scope.md R9,
R12), the machine's state with the host's pending transactions, and reset (10_state.md R47). -/

namespace Sys2Proof.Machine

/-- Why a step stops the machine: nothing does. The spec gives every command and every bus access, legal or
not, a next state (60_exceptions.md R250, R252, R260; 20_memory.md R66), so there is no constructor. -/
inductive Fault
deriving DecidableEq, Repr

/-- Why the model gives a step no meaning. -/
inductive Refusal where
  /-- Raised by an arm of `exec` whose instruction the model does not cover; no arm raises it. Safe: it stops. -/
  | notModelled (mnemonic : String)
deriving DecidableEq, Repr

/-- The error codes of 60_exceptions.md R251, code 0 left out. -/
inductive ErrCode where
  /-- 1 `ILLEGAL_CMD`. -/
  | illegalCmd
  /-- 2 `CR_NOT_CONFIGURED`. -/
  | crNotConfigured
  /-- 3 `PLL_NOT_CONFIGURED`. -/
  | pllNotConfigured
  /-- 4 `TAU_RANGE`. -/
  | tauRange
  /-- 5 `CFG_ITRP`. -/
  | cfgItrp
  /-- 6 `CFG_TED`. -/
  | cfgTed
  /-- 7 `CFG_WLEN`. -/
  | cfgWlen
  /-- 8 `CFG_SLEN`. -/
  | cfgSlen
  /-- 9 `CFG_LOOP`. -/
  | cfgLoop
  /-- 10 `CFG_CONST`. -/
  | cfgConst
  /-- 11 `CFG_PLL_ORDER`. -/
  | cfgPllOrder
  /-- 12 `CFG_PED`. -/
  | cfgPed
  /-- 13 `CFG_OUTSEL`. -/
  | cfgOutsel
  /-- 14 `CFG_PLL_GAIN`. -/
  | cfgPllGain
deriving DecidableEq, Repr

/-- The sticky flags of `STATUS` (R25). -/
inductive Flag where
  /-- Bit 0, a command failed. -/
  | cmdErr
  /-- Bit 1, the phase accumulator was clamped. -/
  | accNeg
  /-- Bit 2, a non-finite value was replaced by 0. -/
  | nonfinite
  /-- Bit 3, a bus access failed. -/
  | busErr
deriving DecidableEq, Repr

/-- The configuration of the CR unit: the staging registers of R27, and the live ones of R28. -/
structure CrConf (R : Type) where
  /-- `CR_KIND`. -/
  kind : Word
  /-- `CR_DEG`. -/
  deg : Word
  /-- `CR_SINC_K`. -/
  sincK : Word
  /-- `CR_SINC_NPH`. -/
  sincNph : Word
  /-- `CR_SINC_FC`. -/
  sincFc : R
  /-- `CR_TED`. -/
  ted : Word
  /-- `CR_OSF_IN`. -/
  osfIn : R
  /-- `CR_TC`. -/
  tc : R
  /-- `CR_WLEN`. -/
  wlen : Word
  /-- `CR_SLEN`. -/
  slen : Word
deriving DecidableEq, Repr

/-- The CR derived configuration registers (R29). -/
structure CrDerived (R : Type) where
  /-- `CR_CFG_OK`. -/
  cfgOk : Word
  /-- `CR_K`. -/
  k : Word
  /-- `CR_DELAY`. -/
  delay : Word
  /-- `CR_NPTS`. -/
  npts : Word
  /-- `CR_OSF_TED`. -/
  osfTed : Word
  /-- `CR_RATIO`. -/
  ratio : R
  /-- `CR_G`. -/
  g : R
deriving DecidableEq, Repr

/-- The CR loop state (R30, R32 to R35). -/
structure CrLoop (R : Type) where
  /-- `CR_ACC`, the phase accumulator. -/
  acc : R
  /-- `CR_W`, the interpolator window. -/
  w : Vector (Cx R) Config.maxWlen
  /-- `CR_WHEAD`. -/
  whead : Word
  /-- `CR_S`, the secondary window. -/
  s : Vector (Cx R) Config.maxSlen
  /-- `CR_SHEAD`. -/
  shead : Word
  /-- `CR_CNT`, emissions modulo `OSF_ted`. -/
  cnt : Word
  /-- `CR_THETA`. -/
  theta : R
  /-- `CR_LAST_E`. -/
  lastE : R
  /-- `CR_LAST_DEC`. -/
  lastDec : R
  /-- `CR_NIN`. -/
  nin : Word
  /-- `CR_NOUT`. -/
  nout : Word
  /-- `CR_OUT_VALID`. -/
  outValid : Word
  /-- `(CR_OUT_I, CR_OUT_Q)`. -/
  out : Cx R
deriving DecidableEq, Repr

/-- The clock recovery unit (R28 to R38). -/
structure CrUnit (R : Type) where
  /-- The `CR_L_` registers (R28). -/
  live : CrConf R
  /-- The derived registers (R29). -/
  derived : CrDerived R
  /-- The loop state (R30 to R35). -/
  loop : CrLoop R
  /-- `CR_CM`, the size of the constellation snapshot (R36). -/
  cm : Word
  /-- `CR_CPT`, the constellation snapshot (R36). -/
  cpt : Vector (Cx R) Config.maxM
  /-- `CR_TAB[p][j]`, the sinc phase table (R37). -/
  tab : Vector (Vector R Config.maxK) (Config.maxNph + 1)
  /-- `COEF` (R38). -/
  coef : Vector R Config.maxK
deriving DecidableEq, Repr

/-- The configuration of the PLL unit: the staging registers of R39, and the live ones of R40. -/
structure PllConf (R : Type) where
  /-- `PLL_ORDER`. -/
  order : Word
  /-- `PLL_PED`. -/
  ped : Word
  /-- `PLL_OUTSEL`. -/
  outsel : Word
  /-- `PLL_ALPHA`. -/
  alpha : R
  /-- `PLL_BL`. -/
  bl : R
  /-- `PLL_ETA`. -/
  eta : R
  /-- `PLL_W0`. -/
  w0 : R
deriving DecidableEq, Repr

/-- The PLL loop state (R42 to R44). -/
structure PllLoop (R : Type) where
  /-- `PLL_THETA`. -/
  theta : R
  /-- `PLL_MU`. -/
  mu : R
  /-- `PLL_EPREV`. -/
  eprev : R
  /-- `PLL_PHI`, the NCO phase. -/
  phi : R
  /-- `(PLL_OUT_I, PLL_OUT_Q)`. -/
  out : Cx R
  /-- `PLL_LAST_E`. -/
  lastE : R
  /-- `PLL_NIN`. -/
  nin : Word
deriving DecidableEq, Repr

/-- The carrier recovery unit (R40 to R44). -/
structure PllUnit (R : Type) where
  /-- The `PLL_L_` registers (R40). -/
  live : PllConf R
  /-- `PLL_CFG_OK` (R41). -/
  cfgOk : Word
  /-- `PLL_GAMMA` (R41). -/
  gamma : R
  /-- `PLL_RHO` (R41). -/
  rho : R
  /-- The loop state (R42 to R44). -/
  loop : PllLoop R
  /-- `PLL_CM`, the size of the constellation snapshot (R40). -/
  cm : Word
  /-- `PLL_CPT`, the constellation snapshot (R40). -/
  cpt : Vector (Cx R) Config.maxM
deriving DecidableEq, Repr

/-- Every register and internal state item of 10_state.md, over a numeric domain `R`. `ID`, `VERSION` and
`CMD` hold no state (R23, R24). -/
structure Regs (R : Type) where
  /-- `OPA = (OPA_I, OPA_Q)` (R22). -/
  opa : Cx R
  /-- `OPB` (R22). -/
  opb : R
  /-- `(RES_I, RES_Q)` (R22). -/
  res : Cx R
  /-- `RES_E` (R22). -/
  resE : R
  /-- `STATUS` (R25). -/
  status : Word
  /-- `ERRCODE` (R26). -/
  errcode : Word
  /-- `ERRCMD` (R26). -/
  errcmd : Word
  /-- The CR staging registers (R27). -/
  crStage : CrConf R
  /-- The PLL staging registers (R39). -/
  pllStage : PllConf R
  /-- `CONST_M` (R45). -/
  constM : Word
  /-- `(CONST_PT_I[i], CONST_PT_Q[i])` (R45). -/
  constPt : Vector (Cx R) Config.maxM
  /-- The clock recovery unit. -/
  cr : CrUnit R
  /-- The carrier recovery unit. -/
  pll : PllUnit R
deriving DecidableEq, Repr

/-- A CR configuration of zeros. -/
def CrConf.zeroed {R : Type} (z : R) : CrConf R :=
  { kind := 0, deg := 0, sincK := 0, sincNph := 0, sincFc := z, ted := 0, osfIn := z, tc := z, wlen := 0, slen := 0 }

/-- A PLL configuration of zeros. -/
def PllConf.zeroed {R : Type} (z : R) : PllConf R :=
  { order := 0, ped := 0, outsel := 0, alpha := z, bl := z, eta := z, w0 := z }

/-- The CR loop state that a unit reset leaves, but for the accumulator it puts at `acc0` (42_clock_recovery.md
R155). -/
def CrLoop.zeroed {R : Type} (z acc0 : R) : CrLoop R :=
  { acc := acc0
    w := Vector.replicate _ ⟨z, z⟩, whead := 0
    s := Vector.replicate _ ⟨z, z⟩, shead := 0
    cnt := 0, theta := z, lastE := z, lastDec := z, nin := 0, nout := 0, outValid := 0, out := ⟨z, z⟩ }

/-- The PLL loop state that a unit reset leaves (45_carrier_pll.md R223). -/
def PllLoop.zeroed {R : Type} (z : R) : PllLoop R :=
  { theta := z, mu := z, eprev := z, phi := z, out := ⟨z, z⟩, lastE := z, nin := 0 }

/-- Every register and internal state item at 0: hardware reset and `CORE_RESET` (R47). -/
def Regs.zeroed {R : Type} (z : R) : Regs R :=
  { opa := ⟨z, z⟩, opb := z, res := ⟨z, z⟩, resE := z
    status := 0, errcode := 0, errcmd := 0
    crStage := CrConf.zeroed z
    pllStage := PllConf.zeroed z
    constM := 0
    constPt := Vector.replicate _ ⟨z, z⟩
    cr :=
      { live := CrConf.zeroed z
        derived := { cfgOk := 0, k := 0, delay := 0, npts := 0, osfTed := 0, ratio := z, g := z }
        loop := CrLoop.zeroed z z
        cm := 0
        cpt := Vector.replicate _ ⟨z, z⟩
        tab := Vector.replicate _ (Vector.replicate _ z)
        coef := Vector.replicate _ z }
    pll :=
      { live := PllConf.zeroed z
        cfgOk := 0, gamma := z, rho := z
        loop := PllLoop.zeroed z
        cm := 0
        cpt := Vector.replicate _ ⟨z, z⟩ } }

/-- The machine: the core's registers at binary32 (92_eei_decisions.md D2), and two fields of the model's own
for the environment (R19): the host transactions still to come, oldest first, and what the last one served
returned. Log 1, 2. -/
structure State where
  /-- The core. -/
  regs : Regs F32
  /-- Host transactions not yet served, oldest first. -/
  pending : List HostTxn
  /-- The word the last transaction returned, if it was a read. -/
  reply : Option Word
deriving DecidableEq, Repr

/-- The machine right after reset (R47, 70_reset_and_hazards.md R280), with no transaction placed. -/
def State.reset : State :=
  { regs := Regs.zeroed F32.zero, pending := [], reply := none }

end Sys2Proof.Machine
end

