-- ==== Sys2Proof/Machine/Numerics.lean ====
section
/-! DEFINITION. The numeric domain `R` as a parameter (00_scope.md R6, R9; 92_eei_decisions.md D41), and the
helper functions, complex operations and ordered sums of 00_scope.md R10, R11, R17, written once over it. -/

namespace Sys2Proof.Machine

/-- The operations of the numeric domain `R` (R9). `binary32` is the hardware's, `exact` the real numbers. -/
structure Numerics (R : Type) where
  /-- A small integer, converted exactly (R9, R105). -/
  ofNat : Nat → R
  /-- `0.5`. -/
  half : R
  /-- `0.25`. -/
  quarter : R
  /-- `PI`. -/
  pi : R
  /-- `TWO_PI`. -/
  twoPi : R
  /-- `+`. -/
  add : R → R → R
  /-- Binary `-`. -/
  sub : R → R → R
  /-- Unary `-`. -/
  neg : R → R
  /-- `*`. -/
  mul : R → R → R
  /-- `/`. -/
  div : R → R → R
  /-- `<`. -/
  lt : R → R → Bool
  /-- `<=`. -/
  le : R → R → Bool
  /-- `=`. -/
  eq : R → R → Bool
  /-- `floor`. -/
  floor : R → R
  /-- The natural number that a value is, if it is one. -/
  toNat? : R → Option Nat
  /-- `fin`. -/
  fin : R → Bool
  /-- Is it NaN? -/
  isNaN : R → Bool
  /-- `exp` of `TRANS`. -/
  exp : R → R
  /-- `sin` of `TRANS`. -/
  sin : R → R
  /-- `cos` of `TRANS`. -/
  cos : R → R
  /-- `atan2 y x` of `TRANS`. -/
  atan2 : R → R → R

section
variable {R : Type} (N : Numerics R)

/-- The constant `0`. -/
def zeroOf : R := N.ofNat 0

/-- The constant `1`. -/
def oneOf : R := N.ofNat 1

/-- The complex constant `0c` (R10). -/
def zeroC : Cx R := ⟨zeroOf N, zeroOf N⟩

/-- `max` (R11). -/
def maxR (a b : R) : R := if N.lt a b then b else a

/-- `min` (R11). -/
def minR (a b : R) : R := if N.lt b a then b else a

/-- `clamp(v, lo, hi) = min(max(v, lo), hi)` (R11). -/
def clamp (v lo hi : R) : R := minR N (maxR N v lo) hi

/-- `wrap_pi(p) = p - TWO_PI * floor((p + PI) / TWO_PI)` (R11). -/
def wrapPi (p : R) : R :=
  N.sub p (N.mul N.twoPi (N.floor (N.div (N.add p N.pi) N.twoPi)))

/-- `z + w` (R10). -/
def addC (z w : Cx R) : Cx R := ⟨N.add z.i w.i, N.add z.q w.q⟩

/-- `z - w` (R10). -/
def subC (z w : Cx R) : Cx R := ⟨N.sub z.i w.i, N.sub z.q w.q⟩

/-- `conj(z)` (R10). -/
def conj (z : Cx R) : Cx R := ⟨z.i, N.neg z.q⟩

/-- `re(z)` (R10). -/
def re (z : Cx R) : R := z.i

/-- `cmul(z, w)`: each product formed first, then the difference or the sum (R10). -/
def cmul (z w : Cx R) : Cx R :=
  ⟨N.sub (N.mul z.i w.i) (N.mul z.q w.q), N.add (N.mul z.i w.q) (N.mul z.q w.i)⟩

/-- `a *s z`, real times complex (R10). -/
def scaleC (a : R) (z : Cx R) : Cx R := ⟨N.mul a z.i, N.mul a z.q⟩

/-- `mag2(z)` (R10). -/
def mag2 (z : Cx R) : R := N.add (N.mul z.i z.i) (N.mul z.q z.q)

/-- `fin_c(z)` (R11). -/
def finC (z : Cx R) : Bool := N.fin z.i && N.fin z.q

/-- The value of `sanitize(z)` (R11); its flag is `noteNonfinite` (60_exceptions.md R262). -/
def sanitizeC (z : Cx R) : Cx R := if finC N z then z else zeroC N

/-- The value of a sanitized real operand (60_exceptions.md R262). -/
def sanitizeR (e : R) : R := if N.fin e then e else zeroOf N

/-- `s <- 0; for j in 0..K-1: s <- s + a_j` (R17). -/
def sumTo (k : Nat) (a : Nat → R) : R :=
  (List.range k).foldl (fun s j => N.add s (a j)) (zeroOf N)

/-- A product evaluated the same way, starting from `1`, over the indices given in order (R17). -/
def prodOver (js : List Nat) (a : Nat → R) : R :=
  js.foldl (fun p j => N.mul p (a j)) (oneOf N)

/-- `arg(z)`, the principal argument, 0 at `0c` (43_ped.md R181). -/
def arg (z : Cx R) : R :=
  if N.eq z.i (zeroOf N) && N.eq z.q (zeroOf N) then zeroOf N else N.atan2 z.q z.i

/-- `carrier(phi) = (cos(phi), sin(phi))` (44_loop_filter_nco.md R207). -/
def carrier (phi : R) : Cx R := ⟨N.cos phi, N.sin phi⟩

end

end Sys2Proof.Machine
end

