-- ==== Sys2Proof/Machine/Binary32.lean ====
section
/-! DEFINITION. `NUMERICS = Binary32` (00_scope.md R6, R9): IEEE 754 binary32, `+ - * /` rounded to nearest,
ties to even, and `TRANS` uninterpreted. A finite value is an integer multiple of 2^-149; an operation
computes the exact rational result in that unit and rounds it once. Log 5, 6, 7, 8, 9. -/

namespace Sys2Proof.Machine

/-- `dec32`: the value a register word stands for (R11). -/
def dec32 (w : Word) : F32 := ⟨w⟩

/-- `enc32`: the word a value reads as (R11). -/
def enc32 (v : F32) : Word := v.bits

/-- Bit 31, the sign. -/
def f32Sign (x : F32) : Bool := x.bits.getLsbD 31

/-- Bits 30:23, the biased exponent. -/
def f32Exp (x : F32) : Nat := (x.bits.extractLsb' 23 8).toNat

/-- Bits 22:0, the fraction. -/
def f32Frac (x : F32) : Nat := (x.bits.extractLsb' 0 23).toNat

/-- Not a number. -/
def f32IsNaN (x : F32) : Bool := f32Exp x == 255 && f32Frac x != 0

/-- Plus or minus infinity. -/
def f32IsInf (x : F32) : Bool := f32Exp x == 255 && f32Frac x == 0

/-- `fin(v)` (R9): neither infinite nor NaN. -/
def f32Fin (x : F32) : Bool := f32Exp x != 255

/-- The magnitude in units of 2^-149: the fraction when subnormal, else the significand with its hidden bit,
shifted by the exponent. An infinity lies above every finite magnitude. -/
def f32Mag (x : F32) : Nat :=
  if f32Exp x = 0 then f32Frac x else (f32Frac x + 2 ^ 23) * 2 ^ (f32Exp x - 1)

/-- The value in units of 2^-149, of a value that is not NaN. -/
def f32ToInt (x : F32) : Int := if f32Sign x then -(f32Mag x : Int) else (f32Mag x : Int)

/-- The value with the given sign and magnitude layout (bits 30:0). -/
def f32Pack (neg : Bool) (mag : Nat) : F32 :=
  ⟨BitVec.ofBool neg ++ BitVec.ofNat 31 mag⟩

/-- The layout of infinity's magnitude: exponent all ones, fraction 0. -/
def infMag : Nat := 255 * 2 ^ 23

/-- An infinity. -/
def f32Inf (neg : Bool) : F32 := f32Pack neg infMag

/-- A zero. -/
def f32Zero (neg : Bool) : F32 := f32Pack neg 0

/-- `n / u` rounded to an integer, to nearest, ties to even. -/
def roundNearestEven (n u : Nat) : Nat :=
  if 2 * (n % u) < u ∨ (2 * (n % u) = u ∧ (n / u) % 2 = 0) then n / u else n / u + 1

/-- The exponent step in which the magnitude `n / d` (units of 2^-149) is represented: multiples of
`2 ^ roundStep n d` of that unit. -/
def roundStep (n d : Nat) : Nat := Nat.log2 (n / d) - 23

/-- The magnitude layout nearest to `n / d` (units of 2^-149), `d > 0`: one rounding, gradual underflow, and
infinity on overflow (R9). -/
def roundMag (n d : Nat) : Nat :=
  min (roundStep n d * 2 ^ 23 + roundNearestEven n (d * 2 ^ roundStep n d)) infMag

/-- The value nearest to `n / d` (units of 2^-149) with the given sign. -/
def f32Round (neg : Bool) (n d : Nat) : F32 := f32Pack neg (roundMag n d)

/-- The unit of a product of two finite magnitudes: `2 ^ 149` of it make one unit of a value. -/
def f32Unit : Nat := 2 ^ 149

/-- The NaN an operation delivers: some NaN, which one is free (log 6). -/
def f32NaN (src : Config.NanSource) (a b : F32) : F32 :=
  if f32IsNaN (Config.nanBits src a b) then Config.nanBits src a b else ⟨0x7FC00000#32⟩

/-- `a + b`, of finite operands: exact, then rounded once. An exact zero is `-0` only as `(-0) + (-0)`. -/
def f32AddFin (a b : F32) : F32 :=
  if f32ToInt a + f32ToInt b = 0 then f32Zero (f32Sign a && f32Sign b)
  else f32Round (f32ToInt a + f32ToInt b < 0) (f32ToInt a + f32ToInt b).natAbs 1

/-- An addition, with `src` naming the NaN it may deliver and `x` the second operand as written. -/
def f32AddAs (src : Config.NanSource) (a b x : F32) : F32 :=
  if f32IsNaN a || f32IsNaN b then f32NaN src a x
  else if f32IsInf a then
    if f32IsInf b && (f32Sign a != f32Sign b) then f32NaN src a x else a
  else if f32IsInf b then b
  else f32AddFin a b

/-- Unary `-`: the sign bit is inverted. -/
def f32Neg (x : F32) : F32 := ⟨x.bits ^^^ 0x80000000#32⟩

/-- `a + b` (R9). -/
def f32Add (a b : F32) : F32 := f32AddAs .add a b b

/-- `a - b` (R9). -/
def f32Sub (a b : F32) : F32 := f32AddAs .sub a (f32Neg b) b

/-- `a * b` (R9). -/
def f32Mul (a b : F32) : F32 :=
  if f32IsNaN a || f32IsNaN b then f32NaN .mul a b
  else if f32IsInf a || f32IsInf b then
    if f32Mag a = 0 ∨ f32Mag b = 0 then f32NaN .mul a b else f32Inf (f32Sign a != f32Sign b)
  else f32Round (f32Sign a != f32Sign b) (f32Mag a * f32Mag b) f32Unit

/-- `a / b` (R9). -/
def f32Div (a b : F32) : F32 :=
  if f32IsNaN a || f32IsNaN b then f32NaN .div a b
  else if f32IsInf a then
    if f32IsInf b then f32NaN .div a b else f32Inf (f32Sign a != f32Sign b)
  else if f32IsInf b then f32Zero (f32Sign a != f32Sign b)
  else if f32Mag b = 0 then
    if f32Mag a = 0 then f32NaN .div a b else f32Inf (f32Sign a != f32Sign b)
  else f32Round (f32Sign a != f32Sign b) (f32Mag a * f32Unit) (f32Mag b)

/-- `a < b`: false when either is NaN; `-0 = 0` (R9). -/
def f32Lt (a b : F32) : Bool :=
  !f32IsNaN a && !f32IsNaN b && decide (f32ToInt a < f32ToInt b)

/-- `a <= b` (R9). -/
def f32Le (a b : F32) : Bool :=
  !f32IsNaN a && !f32IsNaN b && decide (f32ToInt a ≤ f32ToInt b)

/-- `a = b` (R9). -/
def f32Eq (a b : F32) : Bool :=
  !f32IsNaN a && !f32IsNaN b && decide (f32ToInt a = f32ToInt b)

/-- The integer at or below a finite value. -/
def f32FloorInt (x : F32) : Int := f32ToInt x / (f32Unit : Int)

/-- `floor(x)` (R9): exact; an infinity is itself; a zero result has the operand's sign (log 9). -/
def f32Floor (x : F32) : F32 :=
  if f32IsNaN x then f32NaN .floor x x
  else if f32IsInf x then x
  else f32Round (f32Sign x) ((f32FloorInt x).natAbs * f32Unit) 1

/-- A small integer, converted (exactly, below 2^24). -/
def f32OfNat (n : Nat) : F32 := f32Round false (n * f32Unit) 1

/-- The natural number a finite value is, if it is one. -/
def f32ToNat? (x : F32) : Option Nat :=
  if f32Fin x ∧ 0 ≤ f32ToInt x ∧ f32Mag x % f32Unit = 0 then some (f32Mag x / f32Unit) else none

/-- `NUMERICS = Binary32`, the hardware's (R6). `PI` and `TWO_PI` are the binary32 values nearest the real
ones (R9). -/
def binary32 : Numerics F32 :=
  { ofNat := f32OfNat
    half := ⟨0x3F000000#32⟩
    quarter := ⟨0x3E800000#32⟩
    pi := ⟨0x40490FDB#32⟩
    twoPi := ⟨0x40C90FDB#32⟩
    add := f32Add
    sub := f32Sub
    neg := f32Neg
    mul := f32Mul
    div := f32Div
    lt := f32Lt
    le := f32Le
    eq := f32Eq
    floor := f32Floor
    toNat? := f32ToNat?
    fin := f32Fin
    isNaN := f32IsNaN
    exp := Config.exp
    sin := Config.sin
    cos := Config.cos
    atan2 := Config.atan2 }

end Sys2Proof.Machine
end

