-- ==== Sys2Proof/WellFormed.lean ====
section
/-! DEFINITION. Well-formedness. A command has no operand field, so every command is well-formed (30_encoding.md
R81, R82). A bus transaction is well-formed when it is one aligned 32-bit word (20_memory.md R62, R66): the
core answers the others too, by rejecting them. -/

namespace Sys2Proof

/-- Every command is well-formed: there is no operand to be out of range (R82). -/
def Instr.wellFormed : Instr → Bool := fun _ => true

/-- One aligned 32-bit word (R62, R66). The reset pulse is no access. -/
def HostTxn.wellFormed : HostTxn → Bool
  | .read addr nbytes => nbytes == 4 && addr % 4 == 0
  | .write addr nbytes _ => nbytes == 4 && addr % 4 == 0
  | .resetPulse => true

end Sys2Proof
end

