-- ==== Sys2Proof/Decode.lean ====
section
/-! DEFINITION. The decoder of a command word (30_encoding.md R80 to R85), total, rejecting by name; the byte
lanes of a bus word (20_memory.md R63); and the encoder (R83). -/

namespace Sys2Proof

/-- Why a word is not a command (R80, R85). Each of them raises `ILLEGAL_CMD`. -/
inductive DecodeError where
  /-- `w[23:0] != 0`. -/
  | reservedBits
  /-- `opc` is not in the opcode map of R83. -/
  | unassignedOpcode
  /-- The lanes are not one 32-bit word (20_memory.md R62); never a value of a write the core admits. -/
  | notOneWord
deriving DecidableEq, Repr

/-- Bits 31:24 of a command word (R81). -/
def opcField (w : Word) : BitVec 8 := w.extractLsb' 24 8

/-- Bits 23:0 of a command word (R81). -/
def rsvField (w : Word) : BitVec 24 := w.extractLsb' 0 24

/-- The opcode map of R83. -/
def instrOfOpc (opc : BitVec 8) : Option Instr :=
  match opc.toNat with
  | 0x00 => some .nop
  | 0x01 => some .crConfig
  | 0x02 => some .crReset
  | 0x03 => some .crPush
  | 0x04 => some .itrpCoef
  | 0x05 => some .itrpEval
  | 0x06 => some .tedEval
  | 0x10 => some .pllConfig
  | 0x11 => some .pllReset
  | 0x12 => some .pllPush
  | 0x13 => some .pedEval
  | 0x14 => some .lfStep
  | 0x15 => some .ncoStep
  | 0x20 => some .coreReset
  | _ => none

/-- Decoding, total on every 32-bit word (R80, R84, R85). -/
def decode (w : Word) : Except DecodeError Instr :=
  if rsvField w ≠ 0#24 then .error .reservedBits
  else match instrOfOpc (opcField w) with
    | some i => .ok i
    | none => .error .unassignedOpcode

/-- The word that four byte lanes carry: lane 0 is bits 7:0 (20_memory.md R63). -/
def wordOfLanes (b0 b1 b2 b3 : Byte) : Word := b3 ++ b2 ++ b1 ++ b0

/-- Byte lane `k` of a bus word (20_memory.md R63). -/
def laneOf (w : Word) (k : Nat) : Byte := w.extractLsb' (8 * k) 8

/-- Decoding from the byte lanes in address order. -/
def decodeLanes : List Byte → Except DecodeError Instr
  | [b0, b1, b2, b3] => decode (wordOfLanes b0 b1 b2 b3)
  | _ => .error .notOneWord

/-- The opcode of a command (R83). -/
def opcOf : Instr → BitVec 8
  | .nop => 0x00#8
  | .crConfig => 0x01#8
  | .crReset => 0x02#8
  | .crPush => 0x03#8
  | .itrpCoef => 0x04#8
  | .itrpEval => 0x05#8
  | .tedEval => 0x06#8
  | .pllConfig => 0x10#8
  | .pllReset => 0x11#8
  | .pllPush => 0x12#8
  | .pedEval => 0x13#8
  | .lfStep => 0x14#8
  | .ncoStep => 0x15#8
  | .coreReset => 0x20#8

/-- The one word of a command, `opc << 24` (R83). -/
def encode (i : Instr) : Word := opcOf i ++ 0#24

/-- The instruction the decoder reads from an instruction whose bits are `w`, the word laid out in its byte
lanes first (20_memory.md R63). -/
def decodeTableWord (nbits w : Nat) : Option Instr :=
  let word : Word := BitVec.ofNat 32 (w % 2 ^ nbits)
  match decodeLanes [laneOf word 0, laneOf word 1, laneOf word 2, laneOf word 3] with
  | .ok i => some i
  | .error _ => none

end Sys2Proof
end

