-- ==== Sys2Proof/Machine/Flags.lean ====
section
/-! DEFINITION. The sticky flags of `STATUS` (10_state.md R25): setting one, clearing by writing one, and what
a read returns. -/

namespace Sys2Proof.Machine

/-- The bit number of a flag (R25). -/
def flagBit : Flag → Nat
  | .cmdErr => 0
  | .accNeg => 1
  | .nonfinite => 2
  | .busErr => 3

/-- The word with one flag's bit. -/
def flagMask (f : Flag) : Word := 1#32 <<< flagBit f

/-- The bits of `STATUS` that exist (R25). -/
def statusMask : Word := 0xF#32

/-- Is a flag set? -/
def hasFlag {R : Type} (f : Flag) (r : Regs R) : Bool := r.status.getLsbD (flagBit f)

/-- `x[STATUS].f <- 1`. -/
def setFlag {R : Type} (f : Flag) (r : Regs R) : Regs R := { r with status := r.status ||| flagMask f }

/-- `if c: x[STATUS].f <- 1`. -/
def setFlagIf {R : Type} (c : Bool) (f : Flag) (r : Regs R) : Regs R := if c then setFlag f r else r

/-- A host write of `v`: `STATUS <- STATUS and not (v and 0xF)` (R25). -/
def clearFlags {R : Type} (v : Word) (r : Regs R) : Regs R :=
  { r with status := r.status &&& ~~~(v &&& statusMask) }

/-- What a host read of `STATUS` returns: bits 31:4 read 0 (R25). -/
def statusWord {R : Type} (r : Regs R) : Word := r.status &&& statusMask

/-- The flag of `sanitize(z)` (00_scope.md R11; 60_exceptions.md R262). -/
def noteNonfiniteC {R : Type} (N : Numerics R) (z : Cx R) (r : Regs R) : Regs R :=
  setFlagIf (!finC N z) .nonfinite r

/-- The flag of a sanitized real operand (60_exceptions.md R262). -/
def noteNonfiniteR {R : Type} (N : Numerics R) (e : R) (r : Regs R) : Regs R :=
  setFlagIf (!N.fin e) .nonfinite r

end Sys2Proof.Machine
end

