-- ==== Sys2Proof/Machine/Operands.lean ====
section
/-! DEFINITION. How a command reaches its operands (30_encoding.md R82): elements of register arrays, and the
two circular buffers with their head pointers (10_state.md R32, R33; 00_scope.md R13). -/

namespace Sys2Proof.Machine

/-- `x[NAME][i]`; `d` answers an index outside the array, which no reachable state uses. Log 10. -/
def vget {α : Type} {n : Nat} (d : α) (v : Vector α n) (i : Nat) : α := v.getD i d

/-- `x[NAME][i] <- a`; an index outside the array, which no reachable state uses, writes nothing. Log 10. -/
def vput {α : Type} {n : Nat} (v : Vector α n) (i : Nat) (a : α) : Vector α n := v.setIfInBounds i a

/-- A head pointer's next value, `(h + 1) mod len` (R13). -/
def ringNext (h len : Word) : Word := BitVec.ofNat 32 ((h.toNat + 1) % len.toNat)

/-- The slot of the entry pushed `i` pushes before the newest, `(h + len - 1 - i) mod len` (41_ted.md R131). -/
def slotBack (h len : Word) (i : Nat) : Nat := (h.toNat + len.toNat - 1 - i) % len.toNat

/-- The slot of the oldest of the `k` newest entries, `(h + len - K) mod len` (40_interpolator.md R110). -/
def oldestSlot (h len : Word) (k : Nat) : Nat := (h.toNat + len.toNat - k) % len.toNat

/-- `x[n-i]` of the secondary window (41_ted.md R131). -/
def sBack {R : Type} (N : Numerics R) (cr : CrUnit R) (i : Nat) : Cx R :=
  vget (zeroC N) cr.loop.s (slotBack cr.loop.shead cr.live.slen i)

/-- The `j`-th oldest of the `K` newest entries of the interpolator window (40_interpolator.md R110). -/
def wEntry {R : Type} (N : Numerics R) (cr : CrUnit R) (k j : Nat) : Cx R :=
  vget (zeroC N) cr.loop.w ((oldestSlot cr.loop.whead cr.live.wlen k + j) % cr.live.wlen.toNat)

/-- Push into the interpolator window (42_clock_recovery.md R157). -/
def pushW {R : Type} (z : Cx R) (cr : CrUnit R) : CrUnit R :=
  { cr with loop := { cr.loop with
      w := vput cr.loop.w cr.loop.whead.toNat z
      whead := ringNext cr.loop.whead cr.live.wlen } }

/-- Push into the secondary window (42_clock_recovery.md R160). -/
def pushS {R : Type} (y : Cx R) (cr : CrUnit R) : CrUnit R :=
  { cr with loop := { cr.loop with
      s := vput cr.loop.s cr.loop.shead.toNat y
      shead := ringNext cr.loop.shead cr.live.slen } }

end Sys2Proof.Machine
end

