-- ==== Sys2Proof/Machine/Ops.lean ====
section
/-! DEFINITION. How a command ends: `raise CmdError(code)` as one shared operation (60_exceptions.md R251,
R252), the normal end (30_encoding.md R80), and an illegal word (R255). A command error has no return: the core
is ready for the next command at once (60_exceptions.md R260). -/

namespace Sys2Proof.Machine

/-- The value of `ERRCODE` for an error (60_exceptions.md R251). -/
def errCodeWord : ErrCode → Word
  | .illegalCmd => 1
  | .crNotConfigured => 2
  | .pllNotConfigured => 3
  | .tauRange => 4
  | .cfgItrp => 5
  | .cfgTed => 6
  | .cfgWlen => 7
  | .cfgSlen => 8
  | .cfgLoop => 9
  | .cfgConst => 10
  | .cfgPllOrder => 11
  | .cfgPed => 12
  | .cfgOutsel => 13
  | .cfgPllGain => 14

/-- How a command's rule ends: it returns, or it raises an error after the writes already made (00_scope.md
R14). -/
inductive CmdEnd (R : Type) where
  /-- The rule ran to its end. -/
  | done (r : Regs R)
  /-- `raise CmdError(code)`. -/
  | raise (code : ErrCode) (r : Regs R)
deriving DecidableEq, Repr

/-- `raise CmdError(code)` in a command started by the word `w` (60_exceptions.md R252): the one way the core
takes an error. -/
def raiseCmdError {R : Type} (code : ErrCode) (w : Word) (r : Regs R) : Regs R :=
  setFlag .cmdErr { r with errcode := errCodeWord code, errcmd := w }

/-- What executing the word `w` leaves, once its rule has ended (30_encoding.md R80; 60_exceptions.md R252). -/
def finish {R : Type} (w : Word) : CmdEnd R → Regs R
  | .done r => { r with errcode := 0 }
  | .raise code r => raiseCmdError code w r

/-- The machine after a command whose rule ended as `e`: always a next state (60_exceptions.md R260). -/
def complete (i : Instr) (e : CmdEnd F32) (s : State) : Host.Outcome State Fault Refusal :=
  .next { s with regs := finish (encode i) e }

/-- A write to `CMD` of a word that is not a command (30_encoding.md R85; 60_exceptions.md R255). -/
def illegalCommand {R : Type} (w : Word) (r : Regs R) : Regs R := raiseCmdError .illegalCmd w r

/-- `if x[CR_CFG_OK] = 0: raise CmdError(CR_NOT_CONFIGURED)`, else the rule goes on (60_exceptions.md R256). -/
def needCr {R : Type} (r : Regs R) (body : CmdEnd R) : CmdEnd R :=
  if r.cr.derived.cfgOk = 0 then .raise .crNotConfigured r else body

/-- `if x[PLL_CFG_OK] = 0: raise CmdError(PLL_NOT_CONFIGURED)`, else the rule goes on (60_exceptions.md R256). -/
def needPll {R : Type} (r : Regs R) (body : CmdEnd R) : CmdEnd R :=
  if r.pll.cfgOk = 0 then .raise .pllNotConfigured r else body

end Sys2Proof.Machine
end

