-- ==== Sys2Proof/Machine/Control.lean ====
section
/-! DEFINITION. The control commands (46_control.md): `NOP` and `CORE_RESET`, and hardware reset. -/

namespace Sys2Proof.Machine

section
variable {R : Type} (N : Numerics R)

/-- `NOP`: no effect of its own; the normal end then clears `ERRCODE` (R240). -/
def nopCmd (r : Regs R) : CmdEnd R := .done r

/-- Every register and internal state item at its reset value (10_state.md R47), which is also what hardware
reset leaves (R242; 70_reset_and_hazards.md R280). -/
def coreReset : Regs R := Regs.zeroed (zeroOf N)

/-- `CORE_RESET` (R241). -/
def coreResetCmd (_ : Regs R) : CmdEnd R := .done (coreReset N)

end

/-- `NOP` on the machine. -/
def execNop (s : State) : Host.Outcome State Fault Refusal :=
  complete .nop (nopCmd s.regs) s

/-- `CORE_RESET` on the machine. -/
def execCoreReset (s : State) : Host.Outcome State Fault Refusal :=
  complete .coreReset (coreResetCmd binary32 s.regs) s

end Sys2Proof.Machine
end

