-- ==== Sys2Proof/Machine/Bus.lean ====
section
/-! DEFINITION. The host bus: the register map (10_state.md R46), what a read returns and a write does
(20_memory.md R62 to R66), and the serving of one host transaction. -/

namespace Sys2Proof.Machine

/-- The host-visible registers (R46). -/
inductive Reg where
  /-- `ID`, offset 0x000. -/
  | id
  /-- `VERSION`, offset 0x004. -/
  | version
  /-- `STATUS`, offset 0x008. -/
  | status
  /-- `CMD`, offset 0x00C. -/
  | cmd
  /-- `ERRCODE`, offset 0x010. -/
  | errcode
  /-- `ERRCMD`, offset 0x014. -/
  | errcmd
  /-- `OPA_I`, offset 0x020. -/
  | opaI
  /-- `OPA_Q`, offset 0x024. -/
  | opaQ
  /-- `OPB`, offset 0x028. -/
  | opb
  /-- `RES_I`, offset 0x030. -/
  | resI
  /-- `RES_Q`, offset 0x034. -/
  | resQ
  /-- `RES_E`, offset 0x038. -/
  | resE
  /-- `CR_KIND`, offset 0x100. -/
  | crKind
  /-- `CR_DEG`, offset 0x104. -/
  | crDeg
  /-- `CR_SINC_K`, offset 0x108. -/
  | crSincK
  /-- `CR_SINC_NPH`, offset 0x10C. -/
  | crSincNph
  /-- `CR_SINC_FC`, offset 0x110. -/
  | crSincFc
  /-- `CR_TED`, offset 0x114. -/
  | crTed
  /-- `CR_OSF_IN`, offset 0x118. -/
  | crOsfIn
  /-- `CR_TC`, offset 0x11C. -/
  | crTc
  /-- `CR_WLEN`, offset 0x120. -/
  | crWlen
  /-- `CR_SLEN`, offset 0x124. -/
  | crSlen
  /-- `CR_CFG_OK`, offset 0x140. -/
  | crCfgOk
  /-- `CR_K`, offset 0x144. -/
  | crK
  /-- `CR_DELAY`, offset 0x148. -/
  | crDelay
  /-- `CR_NPTS`, offset 0x14C. -/
  | crNpts
  /-- `CR_OSF_TED`, offset 0x150. -/
  | crOsfTed
  /-- `CR_RATIO`, offset 0x154. -/
  | crRatio
  /-- `CR_G`, offset 0x158. -/
  | crG
  /-- `CR_ACC`, offset 0x15C. -/
  | crAcc
  /-- `CR_THETA`, offset 0x160. -/
  | crTheta
  /-- `CR_CNT`, offset 0x164. -/
  | crCnt
  /-- `CR_WHEAD`, offset 0x168. -/
  | crWhead
  /-- `CR_SHEAD`, offset 0x16C. -/
  | crShead
  /-- `CR_NIN`, offset 0x170. -/
  | crNin
  /-- `CR_NOUT`, offset 0x174. -/
  | crNout
  /-- `CR_OUT_VALID`, offset 0x178. -/
  | crOutValid
  /-- `CR_OUT_I`, offset 0x17C. -/
  | crOutI
  /-- `CR_OUT_Q`, offset 0x180. -/
  | crOutQ
  /-- `CR_LAST_E`, offset 0x184. -/
  | crLastE
  /-- `CR_LAST_DEC`, offset 0x188. -/
  | crLastDec
  /-- `PLL_ORDER`, offset 0x200. -/
  | pllOrder
  /-- `PLL_PED`, offset 0x204. -/
  | pllPed
  /-- `PLL_OUTSEL`, offset 0x208. -/
  | pllOutsel
  /-- `PLL_ALPHA`, offset 0x20C. -/
  | pllAlpha
  /-- `PLL_BL`, offset 0x210. -/
  | pllBl
  /-- `PLL_ETA`, offset 0x214. -/
  | pllEta
  /-- `PLL_W0`, offset 0x218. -/
  | pllW0
  /-- `PLL_CFG_OK`, offset 0x240. -/
  | pllCfgOk
  /-- `PLL_GAMMA`, offset 0x244. -/
  | pllGamma
  /-- `PLL_RHO`, offset 0x248. -/
  | pllRho
  /-- `PLL_THETA`, offset 0x24C. -/
  | pllTheta
  /-- `PLL_MU`, offset 0x250. -/
  | pllMu
  /-- `PLL_EPREV`, offset 0x254. -/
  | pllEprev
  /-- `PLL_PHI`, offset 0x258. -/
  | pllPhi
  /-- `PLL_OUT_I`, offset 0x25C. -/
  | pllOutI
  /-- `PLL_OUT_Q`, offset 0x260. -/
  | pllOutQ
  /-- `PLL_LAST_E`, offset 0x264. -/
  | pllLastE
  /-- `PLL_NIN`, offset 0x268. -/
  | pllNin
  /-- `CONST_M`, offset 0x300. -/
  | constM
  /-- `CONST_PT_I[i]`, offset 0x400 + 8*i. -/
  | constPtI (i : Fin Config.maxM)
  /-- `CONST_PT_Q[i]`, offset 0x404 + 8*i. -/
  | constPtQ (i : Fin Config.maxM)
  /-- `CR_W_I[i]`, offset 0x800 + 8*i. -/
  | crWI (i : Fin Config.maxWlen)
  /-- `CR_W_Q[i]`, offset 0x804 + 8*i. -/
  | crWQ (i : Fin Config.maxWlen)
  /-- `CR_S_I[i]`, offset 0xA00 + 8*i. -/
  | crSI (i : Fin Config.maxSlen)
  /-- `CR_S_Q[i]`, offset 0xA04 + 8*i. -/
  | crSQ (i : Fin Config.maxSlen)
  /-- `COEF[i]`, offset 0xB00 + 4*i. -/
  | coef (i : Fin Config.maxK)
deriving DecidableEq, Repr

/-- The constant that `ID` reads (R23). -/
def idWord : Word := 0x54534431#32

/-- The constant that `VERSION` reads (R23). -/
def versionWord : Word := 0x00000007#32

/-- The offset of a register in the window (R46). -/
def regOffset : Reg → Nat
  | .id => 0x000
  | .version => 0x004
  | .status => 0x008
  | .cmd => 0x00C
  | .errcode => 0x010
  | .errcmd => 0x014
  | .opaI => 0x020
  | .opaQ => 0x024
  | .opb => 0x028
  | .resI => 0x030
  | .resQ => 0x034
  | .resE => 0x038
  | .crKind => 0x100
  | .crDeg => 0x104
  | .crSincK => 0x108
  | .crSincNph => 0x10C
  | .crSincFc => 0x110
  | .crTed => 0x114
  | .crOsfIn => 0x118
  | .crTc => 0x11C
  | .crWlen => 0x120
  | .crSlen => 0x124
  | .crCfgOk => 0x140
  | .crK => 0x144
  | .crDelay => 0x148
  | .crNpts => 0x14C
  | .crOsfTed => 0x150
  | .crRatio => 0x154
  | .crG => 0x158
  | .crAcc => 0x15C
  | .crTheta => 0x160
  | .crCnt => 0x164
  | .crWhead => 0x168
  | .crShead => 0x16C
  | .crNin => 0x170
  | .crNout => 0x174
  | .crOutValid => 0x178
  | .crOutI => 0x17C
  | .crOutQ => 0x180
  | .crLastE => 0x184
  | .crLastDec => 0x188
  | .pllOrder => 0x200
  | .pllPed => 0x204
  | .pllOutsel => 0x208
  | .pllAlpha => 0x20C
  | .pllBl => 0x210
  | .pllEta => 0x214
  | .pllW0 => 0x218
  | .pllCfgOk => 0x240
  | .pllGamma => 0x244
  | .pllRho => 0x248
  | .pllTheta => 0x24C
  | .pllMu => 0x250
  | .pllEprev => 0x254
  | .pllPhi => 0x258
  | .pllOutI => 0x25C
  | .pllOutQ => 0x260
  | .pllLastE => 0x264
  | .pllNin => 0x268
  | .constM => 0x300
  | .constPtI i => 0x400 + 8 * i.val
  | .constPtQ i => 0x404 + 8 * i.val
  | .crWI i => 0x800 + 8 * i.val
  | .crWQ i => 0x804 + 8 * i.val
  | .crSI i => 0xA00 + 8 * i.val
  | .crSQ i => 0xA04 + 8 * i.val
  | .coef i => 0xB00 + 4 * i.val

/-- Element `(off - lo) / stride` of an array of `n` elements at `lo`, if `off` is the start of one. -/
def elemAt (lo stride n off : Nat) : Option (Fin n) :=
  if h : lo ≤ off ∧ (off - lo) % stride = 0 ∧ (off - lo) / stride < n then some ⟨(off - lo) / stride, h.2.2⟩ else none

/-- The register arrays of the map (R46). -/
def arrayAt (off : Nat) : Option Reg :=
  (elemAt 0x400 8 Config.maxM off).map .constPtI
  <|> (elemAt 0x404 8 Config.maxM off).map .constPtQ
  <|> (elemAt 0x800 8 Config.maxWlen off).map .crWI
  <|> (elemAt 0x804 8 Config.maxWlen off).map .crWQ
  <|> (elemAt 0xA00 8 Config.maxSlen off).map .crSI
  <|> (elemAt 0xA04 8 Config.maxSlen off).map .crSQ
  <|> (elemAt 0xB00 4 Config.maxK off).map .coef

/-- The register at an offset; none when the offset is unmapped (R46, R66). -/
def regAt (off : Nat) : Option Reg :=
  match off with
  | 0x000 => some .id
  | 0x004 => some .version
  | 0x008 => some .status
  | 0x00C => some .cmd
  | 0x010 => some .errcode
  | 0x014 => some .errcmd
  | 0x020 => some .opaI
  | 0x024 => some .opaQ
  | 0x028 => some .opb
  | 0x030 => some .resI
  | 0x034 => some .resQ
  | 0x038 => some .resE
  | 0x100 => some .crKind
  | 0x104 => some .crDeg
  | 0x108 => some .crSincK
  | 0x10C => some .crSincNph
  | 0x110 => some .crSincFc
  | 0x114 => some .crTed
  | 0x118 => some .crOsfIn
  | 0x11C => some .crTc
  | 0x120 => some .crWlen
  | 0x124 => some .crSlen
  | 0x140 => some .crCfgOk
  | 0x144 => some .crK
  | 0x148 => some .crDelay
  | 0x14C => some .crNpts
  | 0x150 => some .crOsfTed
  | 0x154 => some .crRatio
  | 0x158 => some .crG
  | 0x15C => some .crAcc
  | 0x160 => some .crTheta
  | 0x164 => some .crCnt
  | 0x168 => some .crWhead
  | 0x16C => some .crShead
  | 0x170 => some .crNin
  | 0x174 => some .crNout
  | 0x178 => some .crOutValid
  | 0x17C => some .crOutI
  | 0x180 => some .crOutQ
  | 0x184 => some .crLastE
  | 0x188 => some .crLastDec
  | 0x200 => some .pllOrder
  | 0x204 => some .pllPed
  | 0x208 => some .pllOutsel
  | 0x20C => some .pllAlpha
  | 0x210 => some .pllBl
  | 0x214 => some .pllEta
  | 0x218 => some .pllW0
  | 0x240 => some .pllCfgOk
  | 0x244 => some .pllGamma
  | 0x248 => some .pllRho
  | 0x24C => some .pllTheta
  | 0x250 => some .pllMu
  | 0x254 => some .pllEprev
  | 0x258 => some .pllPhi
  | 0x25C => some .pllOutI
  | 0x260 => some .pllOutQ
  | 0x264 => some .pllLastE
  | 0x268 => some .pllNin
  | 0x300 => some .constM
  | off => arrayAt off

/-- What a host read of a register returns (R64, R65). -/
def readReg (r : Regs F32) (x : Reg) : Word :=
  let c0 : Cx F32 := ⟨F32.zero, F32.zero⟩
  match x with
  | .id => idWord
  | .version => versionWord
  | .status => statusWord r
  | .cmd => 0
  | .errcode => r.errcode
  | .errcmd => r.errcmd
  | .opaI => enc32 r.opa.i
  | .opaQ => enc32 r.opa.q
  | .opb => enc32 r.opb
  | .resI => enc32 r.res.i
  | .resQ => enc32 r.res.q
  | .resE => enc32 r.resE
  | .crKind => r.crStage.kind
  | .crDeg => r.crStage.deg
  | .crSincK => r.crStage.sincK
  | .crSincNph => r.crStage.sincNph
  | .crSincFc => enc32 r.crStage.sincFc
  | .crTed => r.crStage.ted
  | .crOsfIn => enc32 r.crStage.osfIn
  | .crTc => enc32 r.crStage.tc
  | .crWlen => r.crStage.wlen
  | .crSlen => r.crStage.slen
  | .crCfgOk => r.cr.derived.cfgOk
  | .crK => r.cr.derived.k
  | .crDelay => r.cr.derived.delay
  | .crNpts => r.cr.derived.npts
  | .crOsfTed => r.cr.derived.osfTed
  | .crRatio => enc32 r.cr.derived.ratio
  | .crG => enc32 r.cr.derived.g
  | .crAcc => enc32 r.cr.loop.acc
  | .crTheta => enc32 r.cr.loop.theta
  | .crCnt => r.cr.loop.cnt
  | .crWhead => r.cr.loop.whead
  | .crShead => r.cr.loop.shead
  | .crNin => r.cr.loop.nin
  | .crNout => r.cr.loop.nout
  | .crOutValid => r.cr.loop.outValid
  | .crOutI => enc32 r.cr.loop.out.i
  | .crOutQ => enc32 r.cr.loop.out.q
  | .crLastE => enc32 r.cr.loop.lastE
  | .crLastDec => enc32 r.cr.loop.lastDec
  | .pllOrder => r.pllStage.order
  | .pllPed => r.pllStage.ped
  | .pllOutsel => r.pllStage.outsel
  | .pllAlpha => enc32 r.pllStage.alpha
  | .pllBl => enc32 r.pllStage.bl
  | .pllEta => enc32 r.pllStage.eta
  | .pllW0 => enc32 r.pllStage.w0
  | .pllCfgOk => r.pll.cfgOk
  | .pllGamma => enc32 r.pll.gamma
  | .pllRho => enc32 r.pll.rho
  | .pllTheta => enc32 r.pll.loop.theta
  | .pllMu => enc32 r.pll.loop.mu
  | .pllEprev => enc32 r.pll.loop.eprev
  | .pllPhi => enc32 r.pll.loop.phi
  | .pllOutI => enc32 r.pll.loop.out.i
  | .pllOutQ => enc32 r.pll.loop.out.q
  | .pllLastE => enc32 r.pll.loop.lastE
  | .pllNin => r.pll.loop.nin
  | .constM => r.constM
  | .constPtI i => enc32 ((vget c0 r.constPt i.val).i)
  | .constPtQ i => enc32 ((vget c0 r.constPt i.val).q)
  | .crWI i => enc32 ((vget c0 r.cr.loop.w i.val).i)
  | .crWQ i => enc32 ((vget c0 r.cr.loop.w i.val).q)
  | .crSI i => enc32 ((vget c0 r.cr.loop.s i.val).i)
  | .crSQ i => enc32 ((vget c0 r.cr.loop.s i.val).q)
  | .coef i => enc32 ((vget F32.zero r.cr.coef i.val))

/-- What a host write of `v` to a register leaves; none for a read-only register (R66). `CMD`, whose write runs
a command, stores nothing itself (R24). -/
def storeReg (r : Regs F32) (x : Reg) (v : Word) : Option (Regs F32) :=
  let c0 : Cx F32 := ⟨F32.zero, F32.zero⟩
  match x with
  | .id => none
  | .version => none
  | .status => some (clearFlags v r)
  | .cmd => some r
  | .errcode => none
  | .errcmd => none
  | .opaI => some { r with opa := { r.opa with i := dec32 v } }
  | .opaQ => some { r with opa := { r.opa with q := dec32 v } }
  | .opb => some { r with opb := dec32 v }
  | .resI => none
  | .resQ => none
  | .resE => none
  | .crKind => some { r with crStage := { r.crStage with kind := v } }
  | .crDeg => some { r with crStage := { r.crStage with deg := v } }
  | .crSincK => some { r with crStage := { r.crStage with sincK := v } }
  | .crSincNph => some { r with crStage := { r.crStage with sincNph := v } }
  | .crSincFc => some { r with crStage := { r.crStage with sincFc := dec32 v } }
  | .crTed => some { r with crStage := { r.crStage with ted := v } }
  | .crOsfIn => some { r with crStage := { r.crStage with osfIn := dec32 v } }
  | .crTc => some { r with crStage := { r.crStage with tc := dec32 v } }
  | .crWlen => some { r with crStage := { r.crStage with wlen := v } }
  | .crSlen => some { r with crStage := { r.crStage with slen := v } }
  | .crCfgOk => none
  | .crK => none
  | .crDelay => none
  | .crNpts => none
  | .crOsfTed => none
  | .crRatio => none
  | .crG => none
  | .crAcc => none
  | .crTheta => none
  | .crCnt => none
  | .crWhead => none
  | .crShead => none
  | .crNin => none
  | .crNout => none
  | .crOutValid => none
  | .crOutI => none
  | .crOutQ => none
  | .crLastE => none
  | .crLastDec => none
  | .pllOrder => some { r with pllStage := { r.pllStage with order := v } }
  | .pllPed => some { r with pllStage := { r.pllStage with ped := v } }
  | .pllOutsel => some { r with pllStage := { r.pllStage with outsel := v } }
  | .pllAlpha => some { r with pllStage := { r.pllStage with alpha := dec32 v } }
  | .pllBl => some { r with pllStage := { r.pllStage with bl := dec32 v } }
  | .pllEta => some { r with pllStage := { r.pllStage with eta := dec32 v } }
  | .pllW0 => some { r with pllStage := { r.pllStage with w0 := dec32 v } }
  | .pllCfgOk => none
  | .pllGamma => none
  | .pllRho => none
  | .pllTheta => none
  | .pllMu => none
  | .pllEprev => none
  | .pllPhi => none
  | .pllOutI => none
  | .pllOutQ => none
  | .pllLastE => none
  | .pllNin => none
  | .constM => some { r with constM := v }
  | .constPtI i => some { r with constPt := vput r.constPt i.val { vget c0 r.constPt i.val with i := dec32 v } }
  | .constPtQ i => some { r with constPt := vput r.constPt i.val { vget c0 r.constPt i.val with q := dec32 v } }
  | .crWI _ => none
  | .crWQ _ => none
  | .crSI _ => none
  | .crSQ _ => none
  | .coef _ => none

/-- The offset that the core decodes from a host address, `a[11:0]` (R61). -/
def offsetOf (addr : Nat) : Nat := addr % Config.windowBytes

/-- The register an access reaches: one aligned 32-bit word at a mapped offset (R62, R66). -/
def accessed (addr nbytes : Nat) : Option Reg :=
  if nbytes = 4 ∧ offsetOf addr % 4 = 0 then regAt (offsetOf addr) else none

/-- A rejected access sets `BUS_ERR` and changes nothing else (R66). -/
def rejectAccess (r : Regs F32) : Regs F32 := setFlag .busErr r

/-- `MemRead`: the word it returns and the registers after it (R65, R66). -/
def busRead (r : Regs F32) (addr nbytes : Nat) : Word × Regs F32 :=
  match accessed addr nbytes with
  | some x => (readReg r x, r)
  | none => (0, rejectAccess r)

/-- `MemWrite` to a register other than `CMD`: the registers after it (R65, R66). -/
def busWrite (r : Regs F32) (addr nbytes : Nat) (v : Word) : Regs F32 :=
  match (accessed addr nbytes).bind fun x => storeReg r x v with
  | some r' => r'
  | none => rejectAccess r

/-- What serving a transaction comes to: a command word to execute, or the registers and the reply that an
access leaves. -/
inductive Served where
  /-- A write of `w` to `CMD` (R24). -/
  | command (w : Word)
  /-- Any other transaction. -/
  | access (r : Regs F32) (reply : Option Word)
deriving DecidableEq, Repr

/-- One host transaction (R62, R65, R66; 70_reset_and_hazards.md R280). -/
def serve (r : Regs F32) : HostTxn → Served
  | .read addr nbytes => .access (busRead r addr nbytes).2 (some (busRead r addr nbytes).1)
  | .write addr nbytes v =>
    if accessed addr nbytes = some .cmd then .command v else .access (busWrite r addr nbytes v) none
  | .resetPulse => .access (coreReset binary32) none

/-- The transaction that carries a command word: a write to `CMD` (R24). Only the offset is decoded (R61), so
the window's page does not matter; `BASE` is taken as 0 here. -/
def cmdWrite (w : Word) : HostTxn := .write 0x00C 4 w

end Sys2Proof.Machine
end

