-- ==== Sys2Proof/Machine/Interpolator.lean ====
section
/-! DEFINITION. The fractional interpolator (40_interpolator.md): shape, taps, phase table, evaluation, and the
commands `ITRP_COEF` and `ITRP_EVAL`. -/

namespace Sys2Proof.Machine

section
variable {R : Type} (N : Numerics R)

/-- The tap count `K` by kind (R100). A code above 3, which no commit admits, is read as `SINC`. Log 10. -/
def tapCount (c : CrConf R) : Nat :=
  match c.kind.toNat with
  | 0 => 2
  | 1 => 4
  | 2 => c.deg.toNat + 1
  | _ => c.sincK.toNat

/-- The delay `P` by kind (R101). -/
def delayOf (c : CrConf R) : Nat :=
  match c.kind.toNat with
  | 0 => 0
  | 1 => 1
  | 2 => if tapCount c = 2 then 0 else tapCount c / 2
  | _ => tapCount c / 2

/-- `LINEAR` taps (R103). -/
def linearTap (tau : R) : Nat → R
  | 0 => N.sub (oneOf N) tau
  | 1 => tau
  | _ => zeroOf N

/-- `CSPLINE` taps, with `t2 = tau * tau` and `t3 = t2 * tau` (R104). -/
def csplineTapAt (tau t2 t3 : R) : Nat → R
  | 0 => N.mul N.half (N.sub (N.add (N.sub (zeroOf N) t3) (N.mul (N.ofNat 2) t2)) tau)
  | 1 => N.mul N.half (N.add (N.sub (N.mul (N.ofNat 3) t3) (N.mul (N.ofNat 5) t2)) (N.ofNat 2))
  | 2 => N.mul N.half
      (N.add (N.add (N.mul (N.sub (zeroOf N) (N.ofNat 3)) t3) (N.mul (N.ofNat 4) t2)) tau)
  | 3 => N.mul N.half (N.sub t3 t2)
  | _ => zeroOf N

/-- `CSPLINE` taps (R104). -/
def csplineTap (tau : R) (j : Nat) : R :=
  csplineTapAt N tau (N.mul tau tau) (N.mul (N.mul tau tau) tau) j

/-- `LAGRANGE` taps on the nodes `0 .. k-1` at `t = p + tau` (R105). -/
def lagrangeTap (k p : Nat) (tau : R) (j : Nat) : R :=
  prodOver N ((List.range k).filter (· ≠ j)) fun m =>
    N.div (N.sub (N.add (N.ofNat p) tau) (N.ofNat m)) (N.sub (N.ofNat j) (N.ofNat m))

/-- `sinc_u(u)` (R106). -/
def sincU (u : R) : R :=
  if N.eq u (zeroOf N) then oneOf N else N.div (N.sin (N.mul N.pi u)) (N.mul N.pi u)

/-- `hann(x)` of half-width `l` (R106). -/
def hann (l x : R) : R :=
  if N.lt (N.neg l) x && N.lt x l then
    N.mul N.half (N.add (oneOf N) (N.cos (N.div (N.mul N.pi x) l)))
  else zeroOf N

/-- `s_j` of phase `p`, before the normalisation (R106). -/
def sincRaw (k nph : Nat) (fc : R) (p j : Nat) : R :=
  let l := N.ofNat (k / 2 + 1)
  let tp := N.add (N.ofNat (k / 2)) (N.div (N.ofNat p) (N.ofNat nph))
  let xj := N.sub (N.ofNat j) tp
  N.mul (N.mul (N.mul (N.ofNat 2) fc) (sincU N (N.mul (N.mul (N.ofNat 2) fc) xj))) (hann N l xj)

/-- Row `p` of the phase table, normalised to unit sum unless the sum is 0 (R106). -/
def sincRow (k nph : Nat) (fc : R) (p : Nat) : Vector R Config.maxK :=
  let s := sumTo N k (sincRaw N k nph fc p)
  Vector.ofFn fun j : Fin Config.maxK =>
    if j.val < k then
      if N.eq s (zeroOf N) then sincRaw N k nph fc p j.val else N.div (sincRaw N k nph fc p j.val) s
    else zeroOf N

/-- `CR_TAB` at commit: the rows `0 .. NPH` for `SINC`, everything else 0 (R106; 42_clock_recovery.md R150). -/
def phaseTable (c : CrConf R) : Vector (Vector R Config.maxK) (Config.maxNph + 1) :=
  if c.kind = 3 then
    Vector.ofFn fun p : Fin (Config.maxNph + 1) =>
      if p.val ≤ c.sincNph.toNat then sincRow N c.sincK.toNat c.sincNph.toNat c.sincFc p.val
      else Vector.replicate _ (zeroOf N)
  else Vector.replicate _ (Vector.replicate _ (zeroOf N))

/-- `floor(tau * NPH + 0.5)`, at most `NPH` (R107). For a `tau` that gives no natural number, which is outside
`[0, 1]`, the row is free (log 10). -/
def phaseIndex (nph : Nat) (tau : R) : Nat :=
  let p := N.floor (N.add (N.mul tau (N.ofNat nph)) N.half)
  if N.lt (N.ofNat nph) p then nph
  else match N.toNat? p with
    | some n => n
    | none => Config.freeIndex tau % (nph + 1)

/-- `SINC` taps: the nearest table row (R107). -/
def sincTap (nph : Nat) (tab : Vector (Vector R Config.maxK) (Config.maxNph + 1)) (tau : R) (j : Nat) : R :=
  vget (zeroOf N) (vget (Vector.replicate _ (zeroOf N)) tab (phaseIndex N nph tau)) j

/-- `taps(kind, tau)`: tap `c_j` of the live kind (R103 to R107). -/
def tap (cr : CrUnit R) (tau : R) (j : Nat) : R :=
  match cr.live.kind.toNat with
  | 0 => linearTap N tau j
  | 1 => csplineTap N tau j
  | 2 => lagrangeTap N (tapCount cr.live) (delayOf cr.live) tau j
  | _ => sincTap N cr.live.sincNph.toNat cr.tab tau j

/-- `itrp_eval(tau)`: the taps applied to the newest `K` entries of the window (R110). -/
def itrpEval (cr : CrUnit R) (tau : R) : Cx R :=
  ⟨sumTo N (tapCount cr.live) fun j => N.mul (tap N cr tau j) (wEntry N cr (tapCount cr.live) j).i,
   sumTo N (tapCount cr.live) fun j => N.mul (tap N cr tau j) (wEntry N cr (tapCount cr.live) j).q⟩

/-- `not fin(tau) or tau < 0 or tau > 1` (R108, R111). -/
def tauBad (tau : R) : Bool :=
  !N.fin tau || N.lt tau (zeroOf N) || N.lt (oneOf N) tau

/-- What `ITRP_COEF` writes to `COEF` (R108). -/
def coefOf (cr : CrUnit R) (tau : R) : Vector R Config.maxK :=
  Vector.ofFn fun j : Fin Config.maxK => if j.val < tapCount cr.live then tap N cr tau j.val else zeroOf N

/-- `ITRP_COEF` (R108). -/
def itrpCoefCmd (r : Regs R) : CmdEnd R :=
  needCr r <|
    if tauBad N r.opb then .raise .tauRange r
    else .done { r with cr := { r.cr with coef := coefOf N r.cr r.opb } }

/-- `ITRP_EVAL` (R109). -/
def itrpEvalCmd (r : Regs R) : CmdEnd R :=
  needCr r <|
    if tauBad N r.opb then .raise .tauRange r
    else .done { r with res := itrpEval N r.cr r.opb }

end

/-- `ITRP_COEF` on the machine. -/
def execItrpCoef (s : State) : Host.Outcome State Fault Refusal :=
  complete .itrpCoef (itrpCoefCmd binary32 s.regs) s

/-- `ITRP_EVAL` on the machine. -/
def execItrpEval (s : State) : Host.Outcome State Fault Refusal :=
  complete .itrpEval (itrpEvalCmd binary32 s.regs) s

end Sys2Proof.Machine
end

