-- ==== Sys2Proof/Machine/Ted.lean ====
section
/-! DEFINITION. The timing error detector (41_ted.md), the nearest constellation point, and `TED_EVAL`. -/

namespace Sys2Proof.Machine

section
variable {R : Type} (N : Numerics R)

/-- `npts` by kind (R130). A code above 2, which no commit admits, is read as `EL`. Log 10. -/
def tedNpts (c : CrConf R) : Nat :=
  match c.ted.toNat with
  | 0 => 3
  | 1 => 2
  | _ => 4

/-- `osf` by kind (R130). -/
def tedOsf (c : CrConf R) : Nat :=
  match c.ted.toNat with
  | 0 => 2
  | 1 => 1
  | _ => 2

/-- Point `i` of a constellation snapshot. -/
def constPoint (pts : Vector (Cx R) Config.maxM) (i : Nat) : Cx R := vget (zeroC N) pts i

/-- The index of the nearest of the first `m` points: only a strictly smaller distance replaces the best, so
ties go to the lowest index (R133). -/
def nearestIndex (m : Nat) (pts : Vector (Cx R) Config.maxM) (z : Cx R) : Nat :=
  (List.range' 1 (m - 1)).foldl
    (fun best i =>
      if N.lt (mag2 N (subC N z (constPoint N pts i))) (mag2 N (subC N z (constPoint N pts best))) then i
      else best) 0

/-- `nearest(z)` (R133). -/
def nearest (m : Nat) (pts : Vector (Cx R) Config.maxM) (z : Cx R) : Cx R :=
  constPoint N pts (nearestIndex N m pts z)

/-- `GARDNER` error (R132). -/
def gardnerError (x0 x1 x2 : Cx R) : R := re (cmul N (subC N x0 x2) (conj N x1))

/-- `MM` error, of the newest sample `x0` and the one before it, with their decisions (R134). -/
def mmError (x0 x1 d0 d1 : Cx R) : R :=
  N.sub (re (cmul N x1 (conj N d0))) (re (cmul N x0 (conj N d1)))

/-- `EL` error, of the late sample `x1` and the early one `x3` (R135). -/
def elError (x1 x3 : Cx R) : R := N.sub (mag2 N x3) (mag2 N x1)

/-- The decision of the CR unit for a sample, over its snapshot (R134). -/
def crDecide (cr : CrUnit R) (z : Cx R) : Cx R := nearest N cr.cm.toNat cr.cpt z

/-- `ted()`, the error of the live kind (R136). -/
def ted (cr : CrUnit R) : R :=
  match cr.live.ted.toNat with
  | 0 => gardnerError N (sBack N cr 0) (sBack N cr 1) (sBack N cr 2)
  | 1 => mmError N (sBack N cr 0) (sBack N cr 1) (crDecide N cr (sBack N cr 0)) (crDecide N cr (sBack N cr 1))
  | _ => elError N (sBack N cr 1) (sBack N cr 3)

/-- `TED_EVAL` (R137). -/
def tedEvalCmd (r : Regs R) : CmdEnd R :=
  needCr r (.done { r with resE := ted N r.cr })

end

/-- `TED_EVAL` on the machine. -/
def execTedEval (s : State) : Host.Outcome State Fault Refusal :=
  complete .tedEval (tedEvalCmd binary32 s.regs) s

end Sys2Proof.Machine
end

