-- ==== Sys2Proof/Machine/ClockRecovery.lean ====
section
/-! DEFINITION. The clock recovery loop (42_clock_recovery.md): `CR_CONFIG`, `CR_RESET` and `CR_PUSH`. -/

namespace Sys2Proof.Machine

section
variable {R : Type} (N : Numerics R)

/-- Tests 1 to 3 of `cr_check()`: the interpolator kind and its parameters (R151). -/
def itrpConfBad (c : CrConf R) : Bool :=
  decide (3 < c.kind.toNat)
  || decide (c.kind = 2 ∧ (c.deg.toNat < 1 ∨ 31 < c.deg.toNat))
  || (decide (c.kind = 3)
      && (decide (c.sincK.toNat % 2 = 1) || decide (c.sincK.toNat < 4) || decide (32 < c.sincK.toNat)
          || decide (c.sincNph.toNat < 1) || decide (256 < c.sincNph.toNat)
          || !N.fin c.sincFc || N.le c.sincFc (zeroOf N) || N.lt N.half c.sincFc))

/-- Test 7 of `cr_check()`: the loop parameters (R151). -/
def loopConfBad (c : CrConf R) : Bool :=
  !N.fin c.osfIn || N.le c.osfIn (zeroOf N) || !N.fin c.tc || N.le c.tc (zeroOf N)
  || N.lt (N.div c.osfIn (N.ofNat (tedOsf c))) (oneOf N)

/-- A decision-aware mode needs `1 <= CONST_M <= 64` (R151 test 8; 45_carrier_pll.md R221 test 5). -/
def constBad (m : Word) : Bool := decide (m.toNat < 1) || decide (64 < m.toNat)

/-- `cr_check()`: the code of the first failed test, or none (R151). -/
def crCheck (c : CrConf R) (constM : Word) : Option ErrCode :=
  if itrpConfBad N c then some .cfgItrp
  else if 2 < c.ted.toNat then some .cfgTed
  else if c.wlen.toNat < tapCount c ∨ 64 < c.wlen.toNat then some .cfgWlen
  else if c.slen.toNat < tedNpts c ∨ 8 < c.slen.toNat then some .cfgSlen
  else if loopConfBad N c then some .cfgLoop
  else if c.ted = 1 ∧ constBad constM = true then some .cfgConst
  else none

/-- The loop gain `g(OSF_in, tc)` (R153). -/
def loopGain (osfIn tc : R) : R :=
  N.mul osfIn (N.sub (oneOf N) (N.exp (N.sub (zeroOf N) (N.div (oneOf N) (N.mul tc osfIn)))))

/-- The derived registers of a configuration, with `CR_CFG_OK = 1` (R152, R153). -/
def crDerive (c : CrConf R) : CrDerived R :=
  { cfgOk := 1
    k := BitVec.ofNat 32 (tapCount c)
    delay := BitVec.ofNat 32 (delayOf c)
    npts := BitVec.ofNat 32 (tedNpts c)
    osfTed := BitVec.ofNat 32 (tedOsf c)
    ratio := N.div c.osfIn (N.ofNat (tedOsf c))
    g := loopGain N c.osfIn c.tc }

/-- The initial accumulator, `OSF_in * 0.5` (R154). -/
def initialAcc (c : CrConf R) : R := N.mul c.osfIn N.half

/-- `cr_unit_reset()` (R155). -/
def crUnitReset (cr : CrUnit R) : CrUnit R :=
  { cr with loop := CrLoop.zeroed (zeroOf N) (initialAcc N cr.live) }

/-- The unit after a successful commit of the staging registers, the constellation table and a unit reset
(R150). `COEF` is not written. -/
def crCommit (r : Regs R) : CrUnit R :=
  crUnitReset N
    { live := r.crStage
      derived := crDerive N r.crStage
      loop := r.cr.loop
      cm := r.constM
      cpt := r.constPt
      tab := phaseTable N r.crStage
      coef := r.cr.coef }

/-- `CR_CONFIG` (R150). A commit does not check `CFG_OK` (60_exceptions.md R254). -/
def crConfigCmd (r : Regs R) : CmdEnd R :=
  match crCheck N r.crStage r.constM with
  | some code => .raise code { r with cr := { r.cr with derived := { r.cr.derived with cfgOk := 0 } } }
  | none => .done { r with cr := crCommit N r }

/-- `CR_RESET` (R156). -/
def crResetCmd (r : Regs R) : CmdEnd R :=
  needCr r (.done { r with cr := crUnitReset N r.cr })

/-- `acc_guard()`: the negative-accumulator policy (R158). -/
def accGuard (r : Regs R) : Regs R :=
  if N.lt r.cr.loop.acc (zeroOf N) then
    setFlag .accNeg { r with cr := { r.cr with loop := { r.cr.loop with acc := zeroOf N } } }
  else r

/-- The first part of a push, before `acc_guard()`: the sample enters the window and the accumulator is
decremented (R157). -/
def takeSample (z : Cx R) (r : Regs R) : Regs R :=
  let cr := pushW z r.cr
  { r with cr := { cr with loop := { cr.loop with
      nin := cr.loop.nin + 1
      outValid := 0
      acc := N.sub cr.loop.acc (oneOf N) } } }

/-- The emission of `y`, first part: the secondary window, the accumulator's increment, the count (R160). -/
def emitSample (y : Cx R) (r : Regs R) : Regs R :=
  let cr := pushS y r.cr
  { r with cr := { cr with loop := { cr.loop with
      acc := N.add cr.loop.acc cr.derived.ratio
      cnt := ringNext cr.loop.cnt cr.derived.osfTed } } }

/-- The correction before the clamp, `g * e` (R161). -/
def rawCorrection (cr : CrUnit R) (e : R) : R := N.mul cr.derived.g e

/-- The correction `dec` of an error: `g * e`, a NaN taken as 0, clamped to plus or minus `OSF_in * 0.25`
(R161). -/
def correction (cr : CrUnit R) (e : R) : R :=
  let q := N.mul cr.live.osfIn N.quarter
  let r := rawCorrection N cr e
  clamp N (if N.isNaN r then zeroOf N else r) (N.sub (zeroOf N) q) q

/-- The emission of `y`, second part, once per symbol, with the timing error `e`: the correction and the
output symbol (R161, R162). -/
def applySymbol (e : R) (y : Cx R) (r : Regs R) : Regs R :=
  let dec := correction N r.cr e
  let r1 := setFlagIf (N.isNaN (rawCorrection N r.cr e)) .nonfinite r
  let r2 := accGuard N
    { r1 with cr := { r1.cr with loop := { r1.cr.loop with acc := N.sub r1.cr.loop.acc dec } } }
  { r2 with cr := { r2.cr with loop := { r2.cr.loop with
      theta := N.add r2.cr.loop.theta dec
      lastE := e
      lastDec := dec
      out := y
      outValid := 1
      nout := r2.cr.loop.nout + 1 } } }

/-- One emission (R160, R161): the TED runs when the count returns to 0. -/
def emit (r : Regs R) : Regs R :=
  let y := itrpEval N r.cr r.cr.loop.acc
  let r1 := emitSample N y r
  if r1.cr.loop.cnt = 0 then applySymbol N (ted N r1.cr) y r1 else r1

/-- The state decision of a push: `AWAIT_SAMPLE` while the accumulator is above 1, else exactly one emission
(R157, R159). -/
def awaitOrEmit (r : Regs R) : Regs R :=
  if N.lt (oneOf N) r.cr.loop.acc then r else emit N r

/-- `CR_PUSH` (R157). -/
def crPushCmd (r : Regs R) : CmdEnd R :=
  needCr r <| .done <|
    awaitOrEmit N (accGuard N (takeSample N (sanitizeC N r.opa) (noteNonfiniteC N r.opa r)))

end

/-- `CR_CONFIG` on the machine. -/
def execCrConfig (s : State) : Host.Outcome State Fault Refusal :=
  complete .crConfig (crConfigCmd binary32 s.regs) s

/-- `CR_RESET` on the machine. -/
def execCrReset (s : State) : Host.Outcome State Fault Refusal :=
  complete .crReset (crResetCmd binary32 s.regs) s

/-- `CR_PUSH` on the machine. -/
def execCrPush (s : State) : Host.Outcome State Fault Refusal :=
  complete .crPush (crPushCmd binary32 s.regs) s

end Sys2Proof.Machine
end

