-- ==== Sys2Proof/Machine/LoopFilter.lean ====
section
/-! DEFINITION. The loop filters and the NCO accumulator (44_loop_filter_nco.md), `LF_STEP` and `NCO_STEP`. -/

namespace Sys2Proof.Machine

section
variable {R : Type} (N : Numerics R)

/-- The increment `delta` that a filter update returns: `alpha * e` in first order, the previous `mu` in
second order (R195, R196, R198, R201). -/
def lfDelta (pll : PllUnit R) (e : R) : R :=
  if pll.live.order = 1 then N.mul pll.live.alpha e else pll.loop.mu

/-- The next `mu`: untouched in first order, the formula of R198 in second order. -/
def lfMu (pll : PllUnit R) (e : R) : R :=
  if pll.live.order = 1 then pll.loop.mu
  else N.add pll.loop.mu
    (N.mul pll.gamma (N.sub (N.mul (N.add (oneOf N) pll.rho) e) pll.loop.eprev))

/-- The state that a filter update leaves: `theta` advanced and wrapped, `mu`, and `e` as the previous error
(R196, R198, R202). -/
def lfUpdate (pll : PllUnit R) (e : R) : PllUnit R :=
  { pll with loop := { pll.loop with
      theta := wrapPi N (N.add pll.loop.theta (lfDelta N pll e))
      mu := lfMu N pll e
      eprev := e } }

/-- The second-order gains `(gamma, rho)` of `BL` and `eta` (R200). -/
def lfGains (bl eta : R) : R × R :=
  let e2 := N.mul eta eta
  let den := N.add (oneOf N) (N.mul (N.ofNat 4) e2)
  (N.div (N.mul (N.mul (N.ofNat 16) e2) bl) den, N.div (N.mul (N.ofNat 4) bl) den)

/-- `nco_advance(delta)` (R204, R205). -/
def ncoAdvance (pll : PllUnit R) (delta : R) : PllUnit R :=
  { pll with loop := { pll.loop with
      phi := wrapPi N (N.add (N.add pll.loop.phi pll.live.w0) delta) } }

/-- `LF_STEP` (R203). -/
def lfStepCmd (r : Regs R) : CmdEnd R :=
  needPll r <| .done
    { noteNonfiniteR N r.opb r with
      resE := lfDelta N r.pll (sanitizeR N r.opb)
      pll := lfUpdate N r.pll (sanitizeR N r.opb) }

/-- `NCO_STEP` (R206). -/
def ncoStepCmd (r : Regs R) : CmdEnd R :=
  needPll r <| .done
    { noteNonfiniteR N r.opb r with
      res := carrier N (ncoAdvance N r.pll (sanitizeR N r.opb)).loop.phi
      pll := ncoAdvance N r.pll (sanitizeR N r.opb) }

end

/-- `LF_STEP` on the machine. -/
def execLfStep (s : State) : Host.Outcome State Fault Refusal :=
  complete .lfStep (lfStepCmd binary32 s.regs) s

/-- `NCO_STEP` on the machine. -/
def execNcoStep (s : State) : Host.Outcome State Fault Refusal :=
  complete .ncoStep (ncoStepCmd binary32 s.regs) s

end Sys2Proof.Machine
end

