-- ==== Sys2Proof/Machine/Ped.lean ====
section
/-! DEFINITION. The phase error detector (43_ped.md) and `PED_EVAL`. -/

namespace Sys2Proof.Machine

section
variable {R : Type} (N : Numerics R)

/-- The decision of the PLL unit for a sample, over its snapshot (R183). -/
def pllDecide (pll : PllUnit R) (z : Cx R) : Cx R := nearest N pll.cm.toNat pll.cpt z

/-- `DD` mode error, of a sample and its decision (R183). -/
def ddError (y d : Cx R) : R := arg N (cmul N y (conj N d))

/-- `ped(y)`: `DEFAULT` (R182) or `DD` (R183), by the live mode (R184). A code above 1, which no commit
admits, is read as `DD`. Log 10. -/
def ped (pll : PllUnit R) (y : Cx R) : R :=
  if pll.live.ped = 0 then arg N y else ddError N y (pllDecide N pll y)

/-- What `PED_EVAL` writes to `RES`: the decision in `DD` mode, the sample in `DEFAULT` mode (R185). -/
def pedRes (pll : PllUnit R) (y : Cx R) : Cx R :=
  if pll.live.ped = 0 then y else pllDecide N pll y

/-- `PED_EVAL` (R185). -/
def pedEvalCmd (r : Regs R) : CmdEnd R :=
  needPll r <| .done
    { noteNonfiniteC N r.opa r with
      resE := ped N r.pll (sanitizeC N r.opa)
      res := pedRes N r.pll (sanitizeC N r.opa) }

end

/-- `PED_EVAL` on the machine. -/
def execPedEval (s : State) : Host.Outcome State Fault Refusal :=
  complete .pedEval (pedEvalCmd binary32 s.regs) s

end Sys2Proof.Machine
end

