-- ==== Sys2Proof/Machine/CarrierPll.lean ====
section
/-! DEFINITION. The carrier recovery PLL (45_carrier_pll.md): `PLL_CONFIG`, `PLL_RESET` and `PLL_PUSH`. -/

namespace Sys2Proof.Machine

section
variable {R : Type} (N : Numerics R)

/-- Test 4 of `pll_check()`: a gain the order uses, or the offset, is not finite (R221). -/
def pllGainBad (c : PllConf R) : Bool :=
  (decide (c.order = 1) && !N.fin c.alpha)
  || (decide (c.order = 2) && !(N.fin c.bl && N.fin c.eta))
  || !N.fin c.w0

/-- `pll_check()`: the code of the first failed test, or none (R221). -/
def pllCheck (c : PllConf R) (constM : Word) : Option ErrCode :=
  if c.order ≠ 1 ∧ c.order ≠ 2 then some .cfgPllOrder
  else if 1 < c.ped.toNat then some .cfgPed
  else if 1 < c.outsel.toNat then some .cfgOutsel
  else if pllGainBad N c then some .cfgPllGain
  else if c.ped = 1 ∧ constBad constM = true then some .cfgConst
  else none

/-- `pll_unit_reset()` (R223). -/
def pllUnitReset (pll : PllUnit R) : PllUnit R := { pll with loop := PllLoop.zeroed (zeroOf N) }

/-- The gains that a commit leaves: those of R200 for order 2, 0 for order 1 (R220). -/
def pllGains (c : PllConf R) : R × R :=
  if c.order = 2 then lfGains N c.bl c.eta else (zeroOf N, zeroOf N)

/-- The unit after a successful commit of the staging registers, the constellation table and a unit reset
(R220). -/
def pllCommit (r : Regs R) : PllUnit R :=
  pllUnitReset N
    { live := r.pllStage
      cfgOk := 1
      gamma := (pllGains N r.pllStage).1
      rho := (pllGains N r.pllStage).2
      loop := r.pll.loop
      cm := r.constM
      cpt := r.constPt }

/-- `PLL_CONFIG` (R220). A commit does not check `CFG_OK` (60_exceptions.md R254). -/
def pllConfigCmd (r : Regs R) : CmdEnd R :=
  match pllCheck N r.pllStage r.constM with
  | some code => .raise code { r with pll := { r.pll with cfgOk := 0 } }
  | none => .done { r with pll := pllCommit N r }

/-- `PLL_RESET` (R222). -/
def pllResetCmd (r : Regs R) : CmdEnd R :=
  needPll r (.done { r with pll := pllUnitReset N r.pll })

/-- `z` derotated by the NCO phase, `cmul(z, conj(carrier(phi)))` (R224, R225). -/
def derotate (pll : PllUnit R) (z : Cx R) : Cx R := cmul N z (conj N (carrier N pll.loop.phi))

/-- The loop's update for a derotated sample with phase error `e`: the filter, then the NCO (R224). -/
def pllTrack (pll : PllUnit R) (e : R) : PllUnit R := ncoAdvance N (lfUpdate N pll e) (lfDelta N pll e)

/-- The output of a push: the derotated sample, or the carrier of the phase held before the update (R226). -/
def pllOutput (pll : PllUnit R) (z : Cx R) : Cx R :=
  if pll.live.outsel = 0 then derotate N pll z else carrier N pll.loop.phi

/-- The unit after a push of the sanitized sample `z` (R224). -/
def pllPushSample (pll : PllUnit R) (z : Cx R) : PllUnit R :=
  let e := ped N pll (derotate N pll z)
  let u := pllTrack N pll e
  { u with loop := { u.loop with
      out := pllOutput N pll z
      lastE := e
      nin := u.loop.nin + 1 } }

/-- `PLL_PUSH` (R224). -/
def pllPushCmd (r : Regs R) : CmdEnd R :=
  needPll r <| .done
    { noteNonfiniteC N r.opa r with pll := pllPushSample N r.pll (sanitizeC N r.opa) }

end

/-- `PLL_CONFIG` on the machine. -/
def execPllConfig (s : State) : Host.Outcome State Fault Refusal :=
  complete .pllConfig (pllConfigCmd binary32 s.regs) s

/-- `PLL_RESET` on the machine. -/
def execPllReset (s : State) : Host.Outcome State Fault Refusal :=
  complete .pllReset (pllResetCmd binary32 s.regs) s

/-- `PLL_PUSH` on the machine. -/
def execPllPush (s : State) : Host.Outcome State Fault Refusal :=
  complete .pllPush (pllPushCmd binary32 s.regs) s

end Sys2Proof.Machine
end

