-- ==== Sys2Proof/Machine/Dispatch.lean ====
section
/-! DEFINITION. The dispatch of a decoded command to its meaning (30_encoding.md R80, R83). -/

namespace Sys2Proof.Machine

def exec (i : Instr) (s : State) : Host.Outcome State Fault Refusal :=
  match i with
  | .nop => Sys2Proof.Machine.execNop s
  | .crConfig => Sys2Proof.Machine.execCrConfig s
  | .crReset => Sys2Proof.Machine.execCrReset s
  | .crPush => Sys2Proof.Machine.execCrPush s
  | .itrpCoef => Sys2Proof.Machine.execItrpCoef s
  | .itrpEval => Sys2Proof.Machine.execItrpEval s
  | .tedEval => Sys2Proof.Machine.execTedEval s
  | .pllConfig => Sys2Proof.Machine.execPllConfig s
  | .pllReset => Sys2Proof.Machine.execPllReset s
  | .pllPush => Sys2Proof.Machine.execPllPush s
  | .pedEval => Sys2Proof.Machine.execPedEval s
  | .lfStep => Sys2Proof.Machine.execLfStep s
  | .ncoStep => Sys2Proof.Machine.execNcoStep s
  | .coreReset => Sys2Proof.Machine.execCoreReset s

end Sys2Proof.Machine
end

