-- ==== Sys2Proof/Machine/Step.lean ====
section
/-! DEFINITION. One step: the core serves one host transaction (00_scope.md R3, R19; 20_memory.md R70, R71).
The core has no program counter and fetches nothing (10_state.md R20): the next "instruction" is the next
write to `CMD`. Log 1. -/

namespace Sys2Proof.Machine

/-- One step. With no transaction pending nothing changes (R71). Otherwise the oldest one is served with all
its effects: a command word is decoded and executed (30_encoding.md R80), or raises `ILLEGAL_CMD`. -/
def step (s : State) : Host.Outcome State Fault Refusal :=
  match s.pending with
  | [] => .next s
  | t :: rest =>
    match serve s.regs t with
    | .access r reply => .next { regs := r, pending := rest, reply := reply }
    | .command w =>
      match decode w with
      | .ok i => exec i { s with pending := rest, reply := none }
      | .error _ => .next { regs := illegalCommand w s.regs, pending := rest, reply := none }

/-- `s` with the host's next transaction being the write to `CMD` of the word whose bits are `w`, so that the
very next step runs it. Log 1. -/
def State.withFetchWord (s : State) (nbits w : Nat) : State :=
  { s with pending := cmdWrite (BitVec.ofNat 32 (w % 2 ^ nbits)) :: s.pending }

end Sys2Proof.Machine
end

