-- ==== Sys2Proof/Machine/Commands.lean ====
section
/-! DEFINITION. A command as a function of the registers, over any numeric domain (00_scope.md R6): the rule
that 30_encoding.md R83 names for it, ended as R80 and 60_exceptions.md R252 say. `exec` runs the same rules
at binary32. -/

namespace Sys2Proof.Machine

/-- The rule named for a command (R83). -/
def commandEnd {R : Type} (N : Numerics R) (i : Instr) (r : Regs R) : CmdEnd R :=
  match i with
  | .nop => nopCmd r
  | .crConfig => crConfigCmd N r
  | .crReset => crResetCmd N r
  | .crPush => crPushCmd N r
  | .itrpCoef => itrpCoefCmd N r
  | .itrpEval => itrpEvalCmd N r
  | .tedEval => tedEvalCmd N r
  | .pllConfig => pllConfigCmd N r
  | .pllReset => pllResetCmd N r
  | .pllPush => pllPushCmd N r
  | .pedEval => pedEvalCmd N r
  | .lfStep => lfStepCmd N r
  | .ncoStep => ncoStepCmd N r
  | .coreReset => coreResetCmd N r

/-- The registers after a command (R80, R252). -/
def command {R : Type} (N : Numerics R) (i : Instr) (r : Regs R) : Regs R :=
  finish (encode i) (commandEnd N i r)

/-- The registers after one `CR_PUSH` for each sample, in order: `cr.push` of each (30_encoding.md R95). -/
def crPushAll {R : Type} (N : Numerics R) (r : Regs R) (zs : List (Cx R)) : Regs R :=
  zs.foldl (fun r z => command N .crPush { r with opa := z }) r

/-- The registers after one `PLL_PUSH` for each sample, in order: `pll.push` of each (30_encoding.md R95). -/
def pllPushAll {R : Type} (N : Numerics R) (r : Regs R) (zs : List (Cx R)) : Regs R :=
  zs.foldl (fun r z => command N .pllPush { r with opa := z }) r

/-- The registers after one `LF_STEP` for each error, in order, each followed by an `NCO_STEP` with the increment it
returned: `lf.step e`, then `nco.step` of `RES_E` (30_encoding.md R95; 45_carrier_pll.md R228). -/
def filterAll {R : Type} (N : Numerics R) (r : Regs R) (es : List R) : Regs R :=
  es.foldl
    (fun r e =>
      let r1 := command N .lfStep { r with opb := e }
      command N .ncoStep { r1 with opb := r1.resE }) r

end Sys2Proof.Machine
end

