-- ==== Sys2Proof/Machine/Exact.lean ====
section
/-! DEFINITION. `NUMERICS = Exact` (00_scope.md R6, R9; 92_eei_decisions.md D41): the real numbers, where
every value is finite and `TRANS` is the real functions. The spec's derived properties and its vectors are in
this domain; the machine's is `binary32`. -/

namespace Sys2Proof.Machine

/-- The real numbers as a numeric domain (R9). `atan2` has its principal range `(-PI, PI]` (43_ped.md R181). -/
noncomputable def exact : Numerics ℝ :=
  { ofNat := fun n => (n : ℝ)
    half := 1 / 2
    quarter := 1 / 4
    pi := Real.pi
    twoPi := 2 * Real.pi
    add := fun a b => a + b
    sub := fun a b => a - b
    neg := fun a => -a
    mul := fun a b => a * b
    div := fun a b => a / b
    lt := fun a b => decide (a < b)
    le := fun a b => decide (a ≤ b)
    eq := fun a b => decide (a = b)
    floor := fun a => (⌊a⌋ : ℝ)
    toNat? := fun a => if 0 ≤ a ∧ (⌊a⌋ : ℝ) = a then some ⌊a⌋.toNat else none
    fin := fun _ => true
    isNaN := fun _ => false
    exp := Real.exp
    sin := Real.sin
    cos := Real.cos
    atan2 := fun y x => Complex.arg ⟨x, y⟩ }

end Sys2Proof.Machine
end

