-- ==== Sys2Proof/Machine/HostProgram.lean ====
section
/-! DEFINITION. The host program (30_encoding.md R94, R95): its lines, the pseudo-instructions, and the bus
transactions they become at a window base. The text's spelling is the assembler's own; a line here is what it
stands for. -/

namespace Sys2Proof.Machine

/-- A line of a host program (R94) or a pseudo-instruction (R95). A real operand is the value whose `enc32` is
sent. -/
inductive HostLine where
  /-- `wr NAME, v`, the word as given. -/
  | wr (x : Reg) (v : Word)
  /-- `wr off, v` at a numeric offset. -/
  | wrAt (off : Nat) (v : Word)
  /-- `rd NAME`. -/
  | rd (x : Reg)
  /-- `rd off` at a numeric offset. -/
  | rdAt (off : Nat)
  /-- `MNEMONIC`. -/
  | cmd (i : Instr)
  /-- `cr.push a, b`. -/
  | crPush (a b : F32)
  /-- `pll.push a, b`. -/
  | pllPush (a b : F32)
  /-- `ped.eval a, b`. -/
  | pedEval (a b : F32)
  /-- `itrp.coef t`. -/
  | itrpCoef (t : F32)
  /-- `itrp.eval t`. -/
  | itrpEval (t : F32)
  /-- `lf.step e`. -/
  | lfStep (e : F32)
  /-- `nco.step d`. -/
  | ncoStep (d : F32)
  /-- `const.set i, a, b`. -/
  | constSet (i : Fin Config.maxM) (a b : F32)
  /-- `clrstatus`. -/
  | clrstatus
deriving DecidableEq, Repr

/-- `MemWrite(BASE + off, 4, v)` (R94). -/
def writeAt (base off : Nat) (v : Word) : HostTxn := .write (base + off) 4 v

/-- `MemWrite(BASE + offset(NAME), 4, v)` (R94). -/
def writeTo (base : Nat) (x : Reg) (v : Word) : HostTxn := writeAt base (regOffset x) v

/-- `MemWrite(BASE + 0x00C, 4, opc << 24)` (R94). -/
def issue (base : Nat) (i : Instr) : HostTxn := writeTo base .cmd (encode i)

/-- The two words of the complex operand (R95; 20_memory.md R64). -/
def setOpa (base : Nat) (a b : F32) : List HostTxn := [writeTo base .opaI (enc32 a), writeTo base .opaQ (enc32 b)]

/-- The transactions of a line (R94, R95). -/
def expand (base : Nat) : HostLine → List HostTxn
  | .wr x v => [writeTo base x v]
  | .wrAt off v => [writeAt base off v]
  | .rd x => [.read (base + regOffset x) 4]
  | .rdAt off => [.read (base + off) 4]
  | .cmd i => [issue base i]
  | .crPush a b => setOpa base a b ++ [issue base .crPush]
  | .pllPush a b => setOpa base a b ++ [issue base .pllPush]
  | .pedEval a b => setOpa base a b ++ [issue base .pedEval]
  | .itrpCoef t => [writeTo base .opb (enc32 t), issue base .itrpCoef]
  | .itrpEval t => [writeTo base .opb (enc32 t), issue base .itrpEval]
  | .lfStep e => [writeTo base .opb (enc32 e), issue base .lfStep]
  | .ncoStep d => [writeTo base .opb (enc32 d), issue base .ncoStep]
  | .constSet i a b => [writeTo base (.constPtI i) (enc32 a), writeTo base (.constPtQ i) (enc32 b)]
  | .clrstatus => [writeTo base .status 0xF]

/-- The transactions of a program at the platform's `BASE` (R94; 20_memory.md R61). -/
def hostProgram (ls : List HostLine) : List HostTxn := ls.flatMap (expand Config.base)

end Sys2Proof.Machine
end

