-- ==== Sys2Proof/Safety.lean ====
section
/-! DEFINITION. The terms in which claims speak of a safe run: which registers a host may not write, what a
legal state is, and what it means that a step keeps it. -/

namespace Sys2Proof.Machine

/-- The step answers a next state. -/
def Proceeds (s : State) : Prop := ∃ t, step s = .next t

/-- A property of the registers that every step keeps, whatever the host's transaction. -/
def KeptByStep (Inv : Regs F32 → Prop) : Prop := ∀ s t : State, Inv s.regs → step s = .next t → Inv t.regs

/-- The commands of the CR unit (30_encoding.md R83). -/
def crCommands : List Instr := [.crConfig, .crReset, .crPush, .itrpCoef, .itrpEval, .tedEval]

/-- The commands of the PLL unit (30_encoding.md R83). -/
def pllCommands : List Instr := [.pllConfig, .pllReset, .pllPush, .pedEval, .lfStep, .ncoStep]

/-- The registers a host write reaches: read/write ones, `STATUS` and `CMD` (10_state.md R46). -/
def hostWritable : Reg → Bool
  | .status | .cmd | .opaI | .opaQ | .opb => true
  | .crKind | .crDeg | .crSincK | .crSincNph | .crSincFc | .crTed | .crOsfIn | .crTc | .crWlen | .crSlen => true
  | .pllOrder | .pllPed | .pllOutsel | .pllAlpha | .pllBl | .pllEta | .pllW0 => true
  | .constM | .constPtI _ | .constPtQ _ => true
  | _ => false

/-- Bits 31:4 of `STATUS` do not exist (10_state.md R25). -/
def StatusLegal (r : Regs F32) : Prop := r.status.toNat < 16

/-- `ERRCODE` holds 0 or a code of the table (60_exceptions.md R251). -/
def ErrcodeLegal (r : Regs F32) : Prop := r.errcode.toNat ≤ 14

/-- What holds of the CR unit whenever it is configured: its live configuration passed the commit's checks,
its derived registers and phase table are those of that configuration, and its indices are in range
(42_clock_recovery.md R151, R152; 10_state.md R32 to R34; 60_exceptions.md R256). -/
structure CrSound {R : Type} (N : Numerics R) (r : Regs R) : Prop where
  /-- `CR_CFG_OK` is 0 or 1. -/
  cfgOk_bit : r.cr.derived.cfgOk = 0 ∨ r.cr.derived.cfgOk = 1
  /-- The live configuration is one that a commit admits. -/
  admitted : r.cr.derived.cfgOk = 1 → crCheck N r.cr.live r.cr.cm = none
  /-- The derived registers are the configuration's. -/
  derived_eq : r.cr.derived.cfgOk = 1 → r.cr.derived = crDerive N r.cr.live
  /-- The phase table is the configuration's. -/
  tab_eq : r.cr.derived.cfgOk = 1 → r.cr.tab = phaseTable N r.cr.live
  /-- The window's head is a slot of the circular buffer. -/
  whead_lt : r.cr.derived.cfgOk = 1 → r.cr.loop.whead.toNat < r.cr.live.wlen.toNat
  /-- The secondary window's head is a slot of the circular buffer. -/
  shead_lt : r.cr.derived.cfgOk = 1 → r.cr.loop.shead.toNat < r.cr.live.slen.toNat
  /-- The emission count is below `OSF_ted`. -/
  cnt_lt : r.cr.derived.cfgOk = 1 → r.cr.loop.cnt.toNat < r.cr.derived.osfTed.toNat

/-- What holds of the PLL unit whenever it is configured (45_carrier_pll.md R220, R221; 60_exceptions.md R256). -/
structure PllSound {R : Type} (N : Numerics R) (r : Regs R) : Prop where
  /-- `PLL_CFG_OK` is 0 or 1. -/
  cfgOk_bit : r.pll.cfgOk = 0 ∨ r.pll.cfgOk = 1
  /-- The live configuration is one that a commit admits. -/
  admitted : r.pll.cfgOk = 1 → pllCheck N r.pll.live r.pll.cm = none
  /-- The gains are the configuration's. -/
  gains_eq : r.pll.cfgOk = 1 → (r.pll.gamma, r.pll.rho) = pllGains N r.pll.live

/-- The phase accumulator is a number, not negative (10_state.md R30; 42_clock_recovery.md R158), and what it is
fed with is finite. -/
structure AccSound (r : Regs F32) : Prop where
  /-- `CR_ACC >= 0`, so it is not NaN either. -/
  acc_nonneg : f32Le F32.zero r.cr.loop.acc = true
  /-- The live `OSF_in` is finite. -/
  osf_fin : f32Fin r.cr.live.osfIn = true
  /-- The live `OSF_in` is not negative. -/
  osf_nonneg : f32Le F32.zero r.cr.live.osfIn = true
  /-- The increment per emission is finite. -/
  ratio_fin : f32Fin r.cr.derived.ratio = true
  /-- The increment per emission is not negative. -/
  ratio_nonneg : f32Le F32.zero r.cr.derived.ratio = true

end Sys2Proof.Machine
end

