-- ==== Sys2Proof/Certificates/Slice0/Obligations.lean ====
section
/-! DEFINITION. The statements for the provers, each from the numbered rules its docstring names. -/

open Sys2Proof Sys2Proof.Machine

/-! ## Encoding -/

/-- R83, R84: a word selects a command only when it equals the command's word, and the fourteen words are those
of the opcode map. -/
def Obligations.DecodeSelectsExactlyTheOpcodeMap : Prop :=
  (∀ (w : Word) (i : Instr), decode w = .ok i ↔ w = encode i) ∧
  encode .nop = 0x00000000#32 ∧ encode .crConfig = 0x01000000#32 ∧ encode .crReset = 0x02000000#32 ∧
  encode .crPush = 0x03000000#32 ∧ encode .itrpCoef = 0x04000000#32 ∧ encode .itrpEval = 0x05000000#32 ∧
  encode .tedEval = 0x06000000#32 ∧ encode .pllConfig = 0x10000000#32 ∧ encode .pllReset = 0x11000000#32 ∧
  encode .pllPush = 0x12000000#32 ∧ encode .pedEval = 0x13000000#32 ∧ encode .lfStep = 0x14000000#32 ∧
  encode .ncoStep = 0x15000000#32 ∧ encode .coreReset = 0x20000000#32

/-- R85, R255: a write to `CMD` of any other word raises `ILLEGAL_CMD` and has no other effect. -/
def Obligations.IllegalWordOnlyRaisesIllegalCmd : Prop :=
  ∀ (s : State) (rest : List HostTxn) (addr : Nat) (w : Word),
    s.pending = .write addr 4 w :: rest → offsetOf addr = 0x00C → (∀ i : Instr, w ≠ encode i) →
    step s = .next
      { regs := { s.regs with errcode := 1, errcmd := w, status := s.regs.status ||| 1#32 }
        pending := rest, reply := none }

/-- R24, R80: a write to `CMD` of a command's word executes that command; the step takes the transaction off the
host's list and returns no word. -/
def Obligations.StepExecutesTheDecodedCommand : Prop :=
  ∀ (s : State) (rest : List HostTxn) (addr : Nat) (w : Word) (i : Instr),
    s.pending = .write addr 4 w :: rest → offsetOf addr = 0x00C → decode w = .ok i →
    step s = exec i { s with pending := rest, reply := none }

/-- R63, R81, R83: command words laid out byte by byte, the low lane first. -/
def Obligations.CommandBytesDecode : Prop :=
  decodeLanes [0x00#8, 0x00#8, 0x00#8, 0x01#8] = .ok .crConfig ∧
  decodeLanes [0x00#8, 0x00#8, 0x00#8, 0x05#8] = .ok .itrpEval ∧
  decodeLanes [0x00#8, 0x00#8, 0x00#8, 0x06#8] = .ok .tedEval ∧
  decodeLanes [0x00#8, 0x00#8, 0x00#8, 0x13#8] = .ok .pedEval ∧
  decodeLanes [0x00#8, 0x00#8, 0x00#8, 0x15#8] = .ok .ncoStep ∧
  decodeLanes [0x00#8, 0x00#8, 0x00#8, 0x20#8] = .ok .coreReset ∧
  decodeLanes [0x01#8, 0x00#8, 0x00#8, 0x03#8] = .error .reservedBits ∧
  decodeLanes [0x00#8, 0x00#8, 0x00#8, 0x07#8] = .error .unassignedOpcode

/-- R63: lane `k` carries bits `8k+7 : 8k`, and the lanes in address order give the word back. -/
def Obligations.BusLanesAreLittleEndian : Prop :=
  ∀ w : Word,
    wordOfLanes (laneOf w 0) (laneOf w 1) (laneOf w 2) (laneOf w 3) = w ∧
    ∀ k < 4, (laneOf w k).toNat = w.toNat / 2 ^ (8 * k) % 256

/-! ## Errors and completion of steps -/

/-- R250, R260: nothing stops the core; every step, whatever the transaction, answers a next state. -/
def Obligations.EveryStepAnswersANextState : Prop := ∀ s : State, Proceeds s

/-- R252, R253: a command ends either with `ERRCODE` 0 and `ERRCMD` unchanged, or with the three effects of a
command error on top of an otherwise unchanged core; only a failed commit has cleared its unit's `CFG_OK`.
`CORE_RESET` is left out of the first case's `ERRCMD` clause because it resets `ERRCMD` (R241). -/
def Obligations.CommandErrorsArePrecise : Prop :=
  ∀ (i : Instr) (s : State), ∃ t : State, exec i s = .next t ∧ t.pending = s.pending ∧ t.reply = s.reply ∧
    ((t.regs.errcode = 0 ∧ (i ≠ .coreReset → t.regs.errcmd = s.regs.errcmd)) ∨
     ∃ code : ErrCode, ∃ base : Regs F32,
       t.regs = { base with errcode := errCodeWord code, errcmd := encode i, status := s.regs.status ||| 1#32 } ∧
       ((i ≠ .crConfig ∧ i ≠ .pllConfig ∧ base = s.regs) ∨
        (i = .crConfig ∧
          base = { s.regs with cr := { s.regs.cr with derived := { s.regs.cr.derived with cfgOk := 0 } } }) ∨
        (i = .pllConfig ∧ base = { s.regs with pll := { s.regs.pll with cfgOk := 0 } })))

/-- R251, R258: the codes each command can leave in `ERRCODE`. -/
def Obligations.EachCommandLeavesOnlyItsErrorCodes : Prop :=
  ∀ (i : Instr) (s t : State), exec i s = .next t →
    t.regs.errcode.toNat ∈
      (match i with
        | .nop | .coreReset => [0]
        | .crReset | .crPush | .tedEval => [0, 2]
        | .itrpCoef | .itrpEval => [0, 2, 4]
        | .pllReset | .pllPush | .pedEval | .lfStep | .ncoStep => [0, 3]
        | .crConfig => [0, 5, 6, 7, 8, 9, 10]
        | .pllConfig => [0, 10, 11, 12, 13, 14])

/-- R256, R254: in an unconfigured unit every command of the unit but its commit raises the unit's
`NOT_CONFIGURED`, whatever its operands, and does nothing else. -/
def Obligations.UnconfiguredUnitRefusesItsCommands : Prop :=
  ∀ s : State,
    (s.regs.cr.derived.cfgOk = 0 → ∀ i ∈ crCommands, i ≠ .crConfig →
      exec i s = .next { s with regs :=
        { s.regs with errcode := 2, errcmd := encode i, status := s.regs.status ||| 1#32 } }) ∧
    (s.regs.pll.cfgOk = 0 → ∀ i ∈ pllCommands, i ≠ .pllConfig →
      exec i s = .next { s with regs :=
        { s.regs with errcode := 3, errcmd := encode i, status := s.regs.status ||| 1#32 } })

/-- R25, R262, R263, R291: after every command but `CORE_RESET` a flag is set exactly when it was set before or the
command met the flag's listed cause. `CMD_ERR`: the command raised an error. `ACC_NEG`: a `CR_PUSH` in a configured
unit found the accumulator below 0 after the decrement, or, having completed a symbol, after the correction that
`CR_LAST_DEC` records. `NONFINITE`: a non-finite operand of a command that sanitizes it, or a NaN correction
`g * e` of a `CR_PUSH` that completed a symbol with the error `CR_LAST_E` records. No command sets `BUS_ERR`. -/
def Obligations.FlagsAreStickyAndSetOnlyByTheirCause : Prop :=
  ∀ (i : Instr) (s t : State), exec i s = .next t → i ≠ .coreReset →
    let r := s.regs
    let d := f32Sub r.cr.loop.acc ⟨0x3F800000#32⟩
    let a := if f32Lt d F32.zero then F32.zero else d
    let crPushed := i = .crPush ∧ r.cr.derived.cfgOk ≠ 0
    let symbol := crPushed ∧ t.regs.cr.loop.outValid = 1
    let badA := (f32Fin r.opa.i && f32Fin r.opa.q) = false
    let badB := f32Fin r.opb = false
    (hasFlag .cmdErr t.regs = true ↔ hasFlag .cmdErr r = true ∨ t.regs.errcode ≠ 0) ∧
    (hasFlag .accNeg t.regs = true ↔ hasFlag .accNeg r = true ∨
      (crPushed ∧ f32Lt d F32.zero = true) ∨
      (symbol ∧ f32Lt (f32Sub (f32Add a r.cr.derived.ratio) t.regs.cr.loop.lastDec) F32.zero = true)) ∧
    (hasFlag .nonfinite t.regs = true ↔ hasFlag .nonfinite r = true ∨
      (crPushed ∧ badA) ∨
      (symbol ∧ f32IsNaN (f32Mul r.cr.derived.g t.regs.cr.loop.lastE) = true) ∨
      (r.pll.cfgOk ≠ 0 ∧ (i = .pllPush ∨ i = .pedEval) ∧ badA) ∨
      (r.pll.cfgOk ≠ 0 ∧ (i = .lfStep ∨ i = .ncoStep) ∧ badB)) ∧
    (hasFlag .busErr t.regs = hasFlag .busErr r)

/-! ## Control and reset -/

/-- R240, R241: `NOP` clears `ERRCODE` and changes nothing else; `CORE_RESET` puts every register and internal
state item at its reset value. What the host still has to send, and the last reply, are the model's own fields
(log 1, 2) and stay. -/
def Obligations.ControlCommandsEffects : Prop :=
  ∀ s : State,
    exec .nop s = .next { s with regs := { s.regs with errcode := 0 } } ∧
    exec .coreReset s = .next { s with regs := State.reset.regs }

/-- R242: hardware reset has exactly the effect of `CORE_RESET`. -/
def Obligations.HardwareResetIsCoreReset : Prop :=
  ∀ (s : State) (rest : List HostTxn) (w : Word), s.pending = .resetPulse :: rest → decode w = .ok .coreReset →
    step s = step { s with pending := cmdWrite w :: rest } ∧
    step s = .next { regs := State.reset.regs, pending := rest, reply := none }

/-- R47: after hardware reset or `CORE_RESET` every register that a host can read reads 0, but for `ID` and
`VERSION`, every internal item is 0 too, and the staging is a legal configuration for neither unit. -/
def Obligations.ResetLeavesZeroEverywhereButIdAndVersion : Prop :=
  (∀ s : State, exec .coreReset s = .next { s with regs := State.reset.regs }) ∧
  readReg State.reset.regs .id = 0x54534431#32 ∧ readReg State.reset.regs .version = 0x00000007#32 ∧
  (∀ x : Reg, x ≠ .id → x ≠ .version → readReg State.reset.regs x = 0) ∧
  State.reset.regs.cr.live = CrConf.zeroed F32.zero ∧ State.reset.regs.pll.live = PllConf.zeroed F32.zero ∧
  State.reset.regs.cr.cm = 0 ∧ State.reset.regs.pll.cm = 0 ∧
  (∀ i < 64, vget ⟨⟨1#32⟩, ⟨1#32⟩⟩ State.reset.regs.cr.cpt i = ⟨F32.zero, F32.zero⟩ ∧
    vget ⟨⟨1#32⟩, ⟨1#32⟩⟩ State.reset.regs.pll.cpt i = ⟨F32.zero, F32.zero⟩) ∧
  (∀ p < 257, ∀ j < 32, vget ⟨1#32⟩ (vget (Vector.replicate _ ⟨1#32⟩) State.reset.regs.cr.tab p) j = F32.zero) ∧
  crCheck binary32 State.reset.regs.crStage State.reset.regs.constM ≠ none ∧
  pllCheck binary32 State.reset.regs.pllStage State.reset.regs.constM ≠ none

/-- R155, R156, R222, R223: in a configured unit, `CR_RESET` and `PLL_RESET` write exactly the listed items, the
phase accumulator being put at `OSF_in * 0.5`. -/
def Obligations.UnitResetsRewindTheLoops : Prop :=
  ∀ s : State,
    (s.regs.cr.derived.cfgOk = 1 →
      exec .crReset s = .next { s with regs := { s.regs with errcode := 0, cr := { s.regs.cr with loop :=
        { acc := f32Mul s.regs.cr.live.osfIn ⟨0x3F000000#32⟩
          w := Vector.replicate _ ⟨F32.zero, F32.zero⟩, whead := 0
          s := Vector.replicate _ ⟨F32.zero, F32.zero⟩, shead := 0
          cnt := 0, theta := F32.zero, lastE := F32.zero, lastDec := F32.zero, nin := 0, nout := 0
          outValid := 0, out := ⟨F32.zero, F32.zero⟩ } } } }) ∧
    (s.regs.pll.cfgOk = 1 →
      exec .pllReset s = .next { s with regs := { s.regs with errcode := 0, pll := { s.regs.pll with loop :=
        { theta := F32.zero, mu := F32.zero, eprev := F32.zero, phi := F32.zero
          out := ⟨F32.zero, F32.zero⟩, lastE := F32.zero, nin := 0 } } } })

/-! ## The host bus -/

/-- R22 to R27, R29, R30, R32 to R35, R38, R39, R41 to R46: the register map. Every register is at its offset of the
map, and the decoder of offsets finds it there and finds no register at any other offset; the registers a host may
write are those whose offset the map marks RW, R/W1C or WO. -/
def Obligations.RegisterMapIsOneToOne : Prop :=
  [Reg.id, .version, .status, .cmd, .errcode, .errcmd, .opaI, .opaQ, .opb, .resI, .resQ, .resE].map regOffset =
    [0x000, 0x004, 0x008, 0x00C, 0x010, 0x014, 0x020, 0x024, 0x028, 0x030, 0x034, 0x038] ∧
  [Reg.crKind, .crDeg, .crSincK, .crSincNph, .crSincFc, .crTed, .crOsfIn, .crTc, .crWlen, .crSlen].map regOffset =
    [0x100, 0x104, 0x108, 0x10C, 0x110, 0x114, 0x118, 0x11C, 0x120, 0x124] ∧
  [Reg.crCfgOk, .crK, .crDelay, .crNpts, .crOsfTed, .crRatio, .crG, .crAcc, .crTheta, .crCnt, .crWhead, .crShead,
    .crNin, .crNout, .crOutValid, .crOutI, .crOutQ, .crLastE, .crLastDec].map regOffset =
    [0x140, 0x144, 0x148, 0x14C, 0x150, 0x154, 0x158, 0x15C, 0x160, 0x164, 0x168, 0x16C,
      0x170, 0x174, 0x178, 0x17C, 0x180, 0x184, 0x188] ∧
  [Reg.pllOrder, .pllPed, .pllOutsel, .pllAlpha, .pllBl, .pllEta, .pllW0].map regOffset =
    [0x200, 0x204, 0x208, 0x20C, 0x210, 0x214, 0x218] ∧
  [Reg.pllCfgOk, .pllGamma, .pllRho, .pllTheta, .pllMu, .pllEprev, .pllPhi, .pllOutI, .pllOutQ, .pllLastE,
    .pllNin, .constM].map regOffset =
    [0x240, 0x244, 0x248, 0x24C, 0x250, 0x254, 0x258, 0x25C, 0x260, 0x264, 0x268, 0x300] ∧
  (∀ i : Fin 64, regOffset (.constPtI i) = 0x400 + 8 * i.val ∧ regOffset (.constPtQ i) = 0x404 + 8 * i.val ∧
    regOffset (.crWI i) = 0x800 + 8 * i.val ∧ regOffset (.crWQ i) = 0x804 + 8 * i.val) ∧
  (∀ i : Fin 8, regOffset (.crSI i) = 0xA00 + 8 * i.val ∧ regOffset (.crSQ i) = 0xA04 + 8 * i.val) ∧
  (∀ i : Fin 32, regOffset (.coef i) = 0xB00 + 4 * i.val) ∧
  (∀ x : Reg, regAt (regOffset x) = some x ∧ regOffset x % 4 = 0 ∧ regOffset x < 4096) ∧
  (∀ (off : Nat) (x : Reg), regAt off = some x → regOffset x = off) ∧
  (∀ x : Reg, hostWritable x = true ↔
    (0x008 ≤ regOffset x ∧ regOffset x ≤ 0x00C) ∨ (0x020 ≤ regOffset x ∧ regOffset x ≤ 0x028) ∨
    (0x100 ≤ regOffset x ∧ regOffset x ≤ 0x124) ∨ (0x200 ≤ regOffset x ∧ regOffset x ≤ 0x218) ∨
    regOffset x = 0x300 ∨ (0x400 ≤ regOffset x ∧ regOffset x ≤ 0x5FC))

/-- R61: at any `BASE` the core decodes the offset, the low 12 bits of the address. -/
def Obligations.OnlyTheOffsetIsDecoded : Prop :=
  (∀ off < 4096, offsetOf (Config.base + off) = off) ∧ Config.base % 4096 = 0 ∧
  ∀ (s : State) (rest : List HostTxn) (a b n : Nat) (v : Word), a % 4096 = b % 4096 →
    step { s with pending := .write a n v :: rest } = step { s with pending := .write b n v :: rest } ∧
    step { s with pending := .read a n :: rest } = step { s with pending := .read b n :: rest }

/-- R66: an access that is not one aligned 32-bit word at a mapped offset, or that writes a read-only register,
sets `BUS_ERR`, a read returns 0, and nothing else changes. -/
def Obligations.RejectedAccessOnlySetsBusErr : Prop :=
  ∀ (s : State) (rest : List HostTxn) (addr n : Nat) (v : Word),
    (s.pending = .read addr n :: rest →
      (n ≠ 4 ∨ offsetOf addr % 4 ≠ 0 ∨ ∀ x : Reg, regOffset x ≠ offsetOf addr) →
      step s = .next { regs := { s.regs with status := s.regs.status ||| 8#32 }, pending := rest, reply := some 0 }) ∧
    (s.pending = .write addr n v :: rest →
      (n ≠ 4 ∨ offsetOf addr % 4 ≠ 0 ∨ ∀ x : Reg, regOffset x = offsetOf addr → hostWritable x = false) →
      step s = .next { regs := { s.regs with status := s.regs.status ||| 8#32 }, pending := rest, reply := none })

/-- R22 to R27, R29, R30, R32 to R35, R38, R39, R41 to R45, R65, R67: an admitted read returns the register's value
and changes no register, and a register's value is that of the state item it names. -/
def Obligations.ReadReturnsTheRegisterAndHasNoSideEffect : Prop :=
  (∀ (s : State) (rest : List HostTxn) (addr : Nat) (x : Reg),
    s.pending = .read addr 4 :: rest → offsetOf addr = regOffset x →
    step s = .next { regs := s.regs, pending := rest, reply := some (readReg s.regs x) }) ∧
  ∀ r : Regs F32,
    [Reg.id, .version, .status, .cmd, .errcode, .errcmd, .opaI, .opaQ, .opb, .resI, .resQ, .resE].map (readReg r) =
      [0x54534431#32, 0x00000007#32, r.status &&& 0xF#32, 0#32, r.errcode, r.errcmd, r.opa.i.bits, r.opa.q.bits,
        r.opb.bits, r.res.i.bits, r.res.q.bits, r.resE.bits] ∧
    [Reg.crKind, .crDeg, .crSincK, .crSincNph, .crSincFc, .crTed, .crOsfIn, .crTc, .crWlen, .crSlen].map (readReg r) =
      [r.crStage.kind, r.crStage.deg, r.crStage.sincK, r.crStage.sincNph, r.crStage.sincFc.bits, r.crStage.ted,
        r.crStage.osfIn.bits, r.crStage.tc.bits, r.crStage.wlen, r.crStage.slen] ∧
    [Reg.crCfgOk, .crK, .crDelay, .crNpts, .crOsfTed, .crRatio, .crG].map (readReg r) =
      [r.cr.derived.cfgOk, r.cr.derived.k, r.cr.derived.delay, r.cr.derived.npts, r.cr.derived.osfTed,
        r.cr.derived.ratio.bits, r.cr.derived.g.bits] ∧
    [Reg.crAcc, .crTheta, .crCnt, .crWhead, .crShead, .crNin, .crNout, .crOutValid, .crOutI, .crOutQ, .crLastE,
      .crLastDec].map (readReg r) =
      [r.cr.loop.acc.bits, r.cr.loop.theta.bits, r.cr.loop.cnt, r.cr.loop.whead, r.cr.loop.shead, r.cr.loop.nin,
        r.cr.loop.nout, r.cr.loop.outValid, r.cr.loop.out.i.bits, r.cr.loop.out.q.bits, r.cr.loop.lastE.bits,
        r.cr.loop.lastDec.bits] ∧
    [Reg.pllOrder, .pllPed, .pllOutsel, .pllAlpha, .pllBl, .pllEta, .pllW0].map (readReg r) =
      [r.pllStage.order, r.pllStage.ped, r.pllStage.outsel, r.pllStage.alpha.bits, r.pllStage.bl.bits,
        r.pllStage.eta.bits, r.pllStage.w0.bits] ∧
    [Reg.pllCfgOk, .pllGamma, .pllRho, .pllTheta, .pllMu, .pllEprev, .pllPhi, .pllOutI, .pllOutQ, .pllLastE,
      .pllNin, .constM].map (readReg r) =
      [r.pll.cfgOk, r.pll.gamma.bits, r.pll.rho.bits, r.pll.loop.theta.bits, r.pll.loop.mu.bits,
        r.pll.loop.eprev.bits, r.pll.loop.phi.bits, r.pll.loop.out.i.bits, r.pll.loop.out.q.bits,
        r.pll.loop.lastE.bits, r.pll.loop.nin, r.constM] ∧
    (∀ i : Fin 64, [Reg.constPtI i, .constPtQ i, .crWI i, .crWQ i].map (readReg r) =
      [r.constPt[i].i.bits, r.constPt[i].q.bits, r.cr.loop.w[i].i.bits, r.cr.loop.w[i].q.bits]) ∧
    (∀ i : Fin 8, [Reg.crSI i, .crSQ i].map (readReg r) = [r.cr.loop.s[i].i.bits, r.cr.loop.s[i].q.bits]) ∧
    (∀ i : Fin 32, readReg r (.coef i) = r.cr.coef[i].bits)

/-- R65, R74, R284: a write of a read/write register stores the word, every other register reads as before, and
neither unit sees it. -/
def Obligations.WriteStoresOneRegisterAndIsNotYetLive : Prop :=
  ∀ (s : State) (rest : List HostTxn) (addr : Nat) (x : Reg) (v : Word),
    s.pending = .write addr 4 v :: rest → offsetOf addr = regOffset x → hostWritable x = true →
    x ≠ .cmd → x ≠ .status →
    ∃ t : State, step s = .next t ∧ t.pending = rest ∧ t.reply = none ∧
      readReg t.regs x = v ∧ (∀ y : Reg, y ≠ x → readReg t.regs y = readReg s.regs y) ∧
      t.regs.cr = s.regs.cr ∧ t.regs.pll = s.regs.pll

/-- R25: a write of `v` to `STATUS` clears the flags that `v` names, and bits 31:4 read 0. -/
def Obligations.StatusIsWriteOneToClear : Prop :=
  ∀ (s : State) (rest : List HostTxn) (addr : Nat) (v : Word),
    s.pending = .write addr 4 v :: rest → offsetOf addr = 0x008 →
    step s = .next { regs := { s.regs with status := s.regs.status &&& ~~~(v &&& 0xF#32) }
                     pending := rest, reply := none } ∧
    (∀ f, hasFlag f { s.regs with status := s.regs.status &&& ~~~(v &&& 0xF#32) } =
      (hasFlag f s.regs && !v.getLsbD (flagBit f))) ∧
    (readReg s.regs .status).toNat = s.regs.status.toNat % 16

/-! ## Frames and isolation -/

/-- R22, R27, R39, R45: no command but `CORE_RESET` writes an operand register, a staging register or the
constellation table. -/
def Obligations.CommandsLeaveOperandsAndStagingAlone : Prop :=
  ∀ (i : Instr) (s t : State), exec i s = .next t → i ≠ .coreReset →
    t.regs.opa = s.regs.opa ∧ t.regs.opb = s.regs.opb ∧ t.regs.crStage = s.regs.crStage ∧
    t.regs.pllStage = s.regs.pllStage ∧ t.regs.constM = s.regs.constM ∧ t.regs.constPt = s.regs.constPt

/-- R229: a command of one unit reads and writes no state of the other: replacing the other unit's state and
staging before the command or after it comes to the same. -/
def Obligations.UnitsShareNoState : Prop :=
  ∀ (i : Instr) (s t : State), exec i s = .next t →
    (i ∈ crCommands → ∀ (u : PllUnit F32) (c : PllConf F32),
      exec i { s with regs := { s.regs with pll := u, pllStage := c } } =
        .next { t with regs := { t.regs with pll := u, pllStage := c } }) ∧
    (i ∈ pllCommands → ∀ (u : CrUnit F32) (c : CrConf F32),
      exec i { s with regs := { s.regs with cr := u, crStage := c } } =
        .next { t with regs := { t.regs with cr := u, crStage := c } })

/-- R22, R288: `ITRP_COEF` writes only `COEF` of the CR unit, `ITRP_EVAL` and `TED_EVAL` nothing of it, `PED_EVAL`
nothing of the PLL unit; `LF_STEP` writes only the loop filter of the PLL unit and `NCO_STEP` only the NCO phase;
each leaves the results it is not to write. -/
def Obligations.LeafCommandsFrame : Prop :=
  ∀ (i : Instr) (s t : State), exec i s = .next t →
    (i = .itrpCoef → t.regs.cr = { s.regs.cr with coef := t.regs.cr.coef } ∧ t.regs.pll = s.regs.pll ∧
      t.regs.res = s.regs.res ∧ t.regs.resE = s.regs.resE) ∧
    (i = .itrpEval → t.regs.cr = s.regs.cr ∧ t.regs.pll = s.regs.pll ∧ t.regs.resE = s.regs.resE) ∧
    (i = .tedEval → t.regs.cr = s.regs.cr ∧ t.regs.pll = s.regs.pll ∧ t.regs.res = s.regs.res) ∧
    (i = .pedEval → t.regs.cr = s.regs.cr ∧ t.regs.pll = s.regs.pll) ∧
    (i = .lfStep → t.regs.cr = s.regs.cr ∧ t.regs.res = s.regs.res ∧
      t.regs.pll = { s.regs.pll with loop := { s.regs.pll.loop with
        theta := t.regs.pll.loop.theta, mu := t.regs.pll.loop.mu, eprev := t.regs.pll.loop.eprev } }) ∧
    (i = .ncoStep → t.regs.cr = s.regs.cr ∧ t.regs.resE = s.regs.resE ∧
      t.regs.pll = { s.regs.pll with loop := { s.regs.pll.loop with phi := t.regs.pll.loop.phi } })

/-! ## Invariants -/

/-- R25, R251: `STATUS` never holds a bit that does not exist, and `ERRCODE` never a code outside the table. -/
def Obligations.StatusAndErrcodeStayLegal : Prop :=
  KeptByStep StatusLegal ∧ KeptByStep ErrcodeLegal

/-- R32, R33, R34, R152, R256: while the CR unit is configured, its live configuration is one a commit admits,
its derived registers and phase table are that configuration's, and its indices are in range. -/
def Obligations.CrUnitStaysSound : Prop := KeptByStep (CrSound binary32)

/-- R41, R221, R256: while the PLL unit is configured, its live configuration is one a commit admits and its
gains are that configuration's. -/
def Obligations.PllUnitStaysSound : Prop := KeptByStep (PllSound binary32)

/-- R30: after every transaction `CR_ACC >= 0`, at binary32. -/
def Obligations.AccumulatorStaysNonnegative : Prop := KeptByStep AccSound

/-- The four invariants hold after reset (R47). -/
def Obligations.InvariantsHoldAtReset : Prop :=
  StatusLegal State.reset.regs ∧ ErrcodeLegal State.reset.regs ∧ CrSound binary32 State.reset.regs ∧
  PllSound binary32 State.reset.regs ∧ AccSound State.reset.regs

/-! ## Configuration -/

/-- R28, R36, R37, R100, R101, R106, R130, R150, R152 to R155: a successful `CR_CONFIG`: the live copy, the derived
registers, the gain, the phase table, the snapshot and the unit reset. The element `CR_TAB[p][j]` is, for `SINC`,
`p <= NPH` and `j < K`, the windowed sinc `tapOf p j` divided by the ordered sum of its row unless that sum is 0;
every other element is 0. The integers of the formula are converted first (log 18) and `= 0` is the numeric
comparison (log 20). -/
def Obligations.CrConfigCommits : Prop :=
  ∀ s : State, crCheck binary32 s.regs.crStage s.regs.constM = none →
    let c := s.regs.crStage
    let k := if c.kind = 0 then 2 else if c.kind = 1 then 4 else if c.kind = 2 then c.deg.toNat + 1 else c.sincK.toNat
    let delay :=
      if c.kind = 0 then 0 else if c.kind = 1 then 1
      else if c.kind = 2 then (if k = 2 then 0 else k / 2) else k / 2
    let one : F32 := ⟨0x3F800000#32⟩
    let pi : F32 := ⟨0x40490FDB#32⟩
    let fc2 := f32Mul ⟨0x40000000#32⟩ c.sincFc
    let sincU := fun u => if f32Eq u F32.zero then one else f32Div (Config.sin (f32Mul pi u)) (f32Mul pi u)
    let half := f32OfNat (k / 2 + 1)
    let hann := fun x =>
      if f32Lt (f32Neg half) x && f32Lt x half then
        f32Mul ⟨0x3F000000#32⟩ (f32Add one (Config.cos (f32Div (f32Mul pi x) half)))
      else F32.zero
    let offsetAt := fun p j =>
      f32Sub (f32OfNat j) (f32Add (f32OfNat (k / 2)) (f32Div (f32OfNat p) (f32OfNat c.sincNph.toNat)))
    let tapOf := fun p j => f32Mul (f32Mul fc2 (sincU (f32Mul fc2 (offsetAt p j)))) (hann (offsetAt p j))
    let rowSum := fun p => (List.range k).foldl (fun a j => f32Add a (tapOf p j)) F32.zero
    ∃ tab : Vector (Vector F32 32) 257,
      exec .crConfig s = .next { s with regs := { s.regs with errcode := 0, cr :=
        { live := c
          derived :=
            { cfgOk := 1
              k := BitVec.ofNat 32 k
              delay := BitVec.ofNat 32 delay
              npts := if c.ted = 0 then 3 else if c.ted = 1 then 2 else 4
              osfTed := if c.ted = 1 then 1 else 2
              ratio := f32Div c.osfIn (if c.ted = 1 then one else ⟨0x40000000#32⟩)
              g := f32Mul c.osfIn (f32Sub one (Config.exp (f32Sub F32.zero (f32Div one (f32Mul c.tc c.osfIn))))) }
          loop := CrLoop.zeroed F32.zero (f32Mul c.osfIn ⟨0x3F000000#32⟩)
          cm := s.regs.constM
          cpt := s.regs.constPt
          tab := tab
          coef := s.regs.cr.coef } } } ∧
      ∀ (p : Fin 257) (j : Fin 32), tab[p][j] =
        if c.kind = 3 ∧ p.val ≤ c.sincNph.toNat ∧ j.val < k then
          if f32Eq (rowSum p.val) F32.zero then tapOf p.val j.val else f32Div (tapOf p.val j.val) (rowSum p.val)
        else F32.zero

/-- R220, R223: a successful `PLL_CONFIG`, with the gains of R200 in order 2 and 0 in order 1. -/
def Obligations.PllConfigCommits : Prop :=
  ∀ s : State, pllCheck binary32 s.regs.pllStage s.regs.constM = none →
    exec .pllConfig s = .next { s with regs := { s.regs with errcode := 0, pll :=
      { live := s.regs.pllStage
        cfgOk := 1
        gamma :=
          if s.regs.pllStage.order = 2 then
            f32Div (f32Mul (f32Mul (f32OfNat 16) (f32Mul s.regs.pllStage.eta s.regs.pllStage.eta)) s.regs.pllStage.bl)
              (f32Add ⟨0x3F800000#32⟩ (f32Mul (f32OfNat 4) (f32Mul s.regs.pllStage.eta s.regs.pllStage.eta)))
          else F32.zero
        rho :=
          if s.regs.pllStage.order = 2 then
            f32Div (f32Mul (f32OfNat 4) s.regs.pllStage.bl)
              (f32Add ⟨0x3F800000#32⟩ (f32Mul (f32OfNat 4) (f32Mul s.regs.pllStage.eta s.regs.pllStage.eta)))
          else F32.zero
        loop := PllLoop.zeroed F32.zero
        cm := s.regs.constM
        cpt := s.regs.constPt } } }

/-- R150, R220, R252: a failed commit reports the check's code, leaves its unit unconfigured and changes nothing
else. -/
def Obligations.FailedCommitLeavesTheUnitUnconfigured : Prop :=
  ∀ (s : State) (code : ErrCode),
    (crCheck binary32 s.regs.crStage s.regs.constM = some code →
      exec .crConfig s = .next { s with regs :=
        { s.regs with
          errcode := errCodeWord code, errcmd := 0x01000000#32, status := s.regs.status ||| 1#32
          cr := { s.regs.cr with derived := { s.regs.cr.derived with cfgOk := 0 } } } }) ∧
    (pllCheck binary32 s.regs.pllStage s.regs.constM = some code →
      exec .pllConfig s = .next { s with regs :=
        { s.regs with
          errcode := errCodeWord code, errcmd := 0x10000000#32, status := s.regs.status ||| 1#32
          pll := { s.regs.pll with cfgOk := 0 } } })

/-- R27, R151: the configurations that `CR_CONFIG` admits are exactly the legal ones. -/
def Obligations.CrConfigAdmitsExactlyTheLegal : Prop :=
  ∀ (c : CrConf F32) (m : Word), crCheck binary32 c m = none ↔
    c.kind.toNat ≤ 3 ∧
    (c.kind = 2 → 1 ≤ c.deg.toNat ∧ c.deg.toNat ≤ 31) ∧
    (c.kind = 3 → c.sincK.toNat % 2 = 0 ∧ 4 ≤ c.sincK.toNat ∧ c.sincK.toNat ≤ 32 ∧
      1 ≤ c.sincNph.toNat ∧ c.sincNph.toNat ≤ 256 ∧
      f32Fin c.sincFc = true ∧ f32Lt F32.zero c.sincFc = true ∧ f32Le c.sincFc ⟨0x3F000000#32⟩ = true) ∧
    c.ted.toNat ≤ 2 ∧
    tapCount c ≤ c.wlen.toNat ∧ c.wlen.toNat ≤ 64 ∧ tedNpts c ≤ c.slen.toNat ∧ c.slen.toNat ≤ 8 ∧
    f32Fin c.osfIn = true ∧ f32Lt F32.zero c.osfIn = true ∧ f32Fin c.tc = true ∧ f32Lt F32.zero c.tc = true ∧
    f32Le ⟨0x3F800000#32⟩ (f32Div c.osfIn (f32OfNat (tedOsf c))) = true ∧
    (c.ted = 1 → 1 ≤ m.toNat ∧ m.toNat ≤ 64)

/-- R39, R221: the configurations that `PLL_CONFIG` admits are exactly the legal ones. -/
def Obligations.PllConfigAdmitsExactlyTheLegal : Prop :=
  ∀ (c : PllConf F32) (m : Word), pllCheck binary32 c m = none ↔
    (c.order = 1 ∨ c.order = 2) ∧ c.ped.toNat ≤ 1 ∧ c.outsel.toNat ≤ 1 ∧
    (c.order = 1 → f32Fin c.alpha = true) ∧ (c.order = 2 → f32Fin c.bl = true ∧ f32Fin c.eta = true) ∧
    f32Fin c.w0 = true ∧ (c.ped = 1 → 1 ≤ m.toNat ∧ m.toNat ≤ 64)

/-- R151, R221: a commit tests its staging registers in the order of the rule's table and reports the code of the
first failed test, or 0. Each list is that table, a row a test with its code; `K`, `npts` and `osf` are those of
the staged kinds (R100, R130). -/
def Obligations.CommitReportsTheFirstFailingTest : Prop :=
  ∀ s : State,
    let m := s.regs.constM.toNat
    let firstFailed := fun (tests : List (Bool × Nat)) => ((tests.find? (·.1)).map (·.2)).getD 0
    (let c := s.regs.crStage
     let k :=
       if c.kind = 0 then 2 else if c.kind = 1 then 4 else if c.kind = 2 then c.deg.toNat + 1 else c.sincK.toNat
     let npts := if c.ted = 0 then 3 else if c.ted = 1 then 2 else 4
     let osf : F32 := if c.ted = 1 then ⟨0x3F800000#32⟩ else ⟨0x40000000#32⟩
     ∃ t : State, exec .crConfig s = .next t ∧ t.regs.errcode.toNat = firstFailed
       [(decide (3 < c.kind.toNat), 5),
        (decide (c.kind = 2 ∧ (c.deg.toNat < 1 ∨ 31 < c.deg.toNat)), 5),
        (decide (c.kind = 3 ∧
          (c.sincK.toNat % 2 = 1 ∨ c.sincK.toNat < 4 ∨ 32 < c.sincK.toNat ∨
            c.sincNph.toNat < 1 ∨ 256 < c.sincNph.toNat ∨
            f32Fin c.sincFc = false ∨ f32Le c.sincFc F32.zero = true ∨ f32Lt ⟨0x3F000000#32⟩ c.sincFc = true)), 5),
        (decide (2 < c.ted.toNat), 6),
        (decide (c.wlen.toNat < k ∨ 64 < c.wlen.toNat), 7),
        (decide (c.slen.toNat < npts ∨ 8 < c.slen.toNat), 8),
        (decide (f32Fin c.osfIn = false ∨ f32Le c.osfIn F32.zero = true ∨
          f32Fin c.tc = false ∨ f32Le c.tc F32.zero = true ∨
          f32Lt (f32Div c.osfIn osf) ⟨0x3F800000#32⟩ = true), 9),
        (decide (c.ted = 1 ∧ (m < 1 ∨ 64 < m)), 10)]) ∧
    (let c := s.regs.pllStage
     ∃ t : State, exec .pllConfig s = .next t ∧ t.regs.errcode.toNat = firstFailed
       [(decide (c.order ≠ 1 ∧ c.order ≠ 2), 11),
        (decide (1 < c.ped.toNat), 12),
        (decide (1 < c.outsel.toNat), 13),
        (decide ((c.order = 1 ∧ f32Fin c.alpha = false) ∨
          (c.order = 2 ∧ ¬(f32Fin c.bl = true ∧ f32Fin c.eta = true)) ∨ f32Fin c.w0 = false), 14),
        (decide (c.ped = 1 ∧ (m < 1 ∨ 64 < m)), 10)])

/-! ## Interpolator -/

/-- R108: `ITRP_COEF` with a legal `tau` writes the taps to `COEF`, 0 from `K` on, and nothing else. -/
def Obligations.ItrpCoefWritesTheTaps : Prop :=
  ∀ s : State, s.regs.cr.derived.cfgOk = 1 → f32Fin s.regs.opb = true → f32Lt s.regs.opb F32.zero = false →
    f32Lt ⟨0x3F800000#32⟩ s.regs.opb = false →
    ∃ coef : Vector F32 Config.maxK,
      exec .itrpCoef s = .next { s with regs := { s.regs with errcode := 0, cr := { s.regs.cr with coef := coef } } } ∧
      (∀ j < 32, tapCount s.regs.cr.live ≤ j → vget ⟨1#32⟩ coef j = F32.zero) ∧
      (∀ j < 32, j < tapCount s.regs.cr.live → vget ⟨1#32⟩ coef j = tap binary32 s.regs.cr s.regs.opb j)

/-- R100, R101, R103 to R105, R107: the tap counts and the taps, by kind, as binary32 operations in the order
written; `LAGRANGE` is the product over the nodes other than `j`, in rising order, starting from 1, its integers
converted first (log 18). -/
def Obligations.TapsByKind : Prop :=
  ∀ (cr : CrUnit F32) (tau : F32),
    (cr.live.kind = 0 → tapCount cr.live = 2 ∧ tap binary32 cr tau 0 = f32Sub ⟨0x3F800000#32⟩ tau ∧
      tap binary32 cr tau 1 = tau) ∧
    (cr.live.kind = 1 → tapCount cr.live = 4 ∧
      tap binary32 cr tau 0 = f32Mul ⟨0x3F000000#32⟩ (f32Sub (f32Add (f32Sub F32.zero (f32Mul (f32Mul tau tau) tau))
        (f32Mul ⟨0x40000000#32⟩ (f32Mul tau tau))) tau) ∧
      tap binary32 cr tau 1 = f32Mul ⟨0x3F000000#32⟩ (f32Add (f32Sub (f32Mul ⟨0x40400000#32⟩ (f32Mul (f32Mul tau tau) tau))
        (f32Mul ⟨0x40A00000#32⟩ (f32Mul tau tau))) ⟨0x40000000#32⟩) ∧
      tap binary32 cr tau 2 = f32Mul ⟨0x3F000000#32⟩ (f32Add (f32Add (f32Mul (f32Sub F32.zero ⟨0x40400000#32⟩)
        (f32Mul (f32Mul tau tau) tau)) (f32Mul ⟨0x40800000#32⟩ (f32Mul tau tau))) tau) ∧
      tap binary32 cr tau 3 = f32Mul ⟨0x3F000000#32⟩ (f32Sub (f32Mul (f32Mul tau tau) tau) (f32Mul tau tau))) ∧
    (cr.live.kind = 2 → tapCount cr.live = cr.live.deg.toNat + 1 ∧
      let p := if cr.live.deg = 1 then 0 else (cr.live.deg.toNat + 1) / 2
      let t := f32Add (f32OfNat p) tau
      ∀ j ≤ cr.live.deg.toNat, tap binary32 cr tau j =
        ((List.range (cr.live.deg.toNat + 1)).filter (fun m => m ≠ j)).foldl
          (fun a m => f32Mul a (f32Div (f32Sub t (f32OfNat m)) (f32Sub (f32OfNat j) (f32OfNat m))))
          ⟨0x3F800000#32⟩) ∧
    (cr.live.kind = 3 → tapCount cr.live = cr.live.sincK.toNat ∧
      let p := f32Floor (f32Add (f32Mul tau (f32OfNat cr.live.sincNph.toNat)) ⟨0x3F000000#32⟩)
      let row := fun n j => vget F32.zero (vget (Vector.replicate _ F32.zero) cr.tab n) j
      (f32Lt (f32OfNat cr.live.sincNph.toNat) p = true → tap binary32 cr tau = row cr.live.sincNph.toNat) ∧
      (∀ n, f32Lt (f32OfNat cr.live.sincNph.toNat) p = false → f32ToNat? p = some n → tap binary32 cr tau = row n))

/-- R109, R110: `ITRP_EVAL` with a legal `tau` writes to `RES` the ordered sums of the taps over the newest `K`
window entries, and nothing else. -/
def Obligations.ItrpEvalInterpolatesTheWindow : Prop :=
  ∀ s : State, s.regs.cr.derived.cfgOk = 1 → f32Fin s.regs.opb = true → f32Lt s.regs.opb F32.zero = false →
    f32Lt ⟨0x3F800000#32⟩ s.regs.opb = false →
    let cr := s.regs.cr
    let k := tapCount cr.live
    let o := (cr.loop.whead.toNat + cr.live.wlen.toNat - k) % cr.live.wlen.toNat
    let x := fun j => vget ⟨F32.zero, F32.zero⟩ cr.loop.w ((o + j) % cr.live.wlen.toNat)
    exec .itrpEval s = .next { s with regs := { s.regs with errcode := 0, res :=
      ⟨(List.range k).foldl (fun a j => f32Add a (f32Mul (tap binary32 cr s.regs.opb j) (x j).i)) F32.zero,
       (List.range k).foldl (fun a j => f32Add a (f32Mul (tap binary32 cr s.regs.opb j) (x j).q)) F32.zero⟩ } }

/-- R108, R109, R111: a `tau` that is not finite, below 0 or above 1 raises `TAU_RANGE` and changes nothing
else. -/
def Obligations.TauOutOfRangeRaises : Prop :=
  ∀ (s : State) (i : Instr), i = .itrpCoef ∨ i = .itrpEval → s.regs.cr.derived.cfgOk = 1 →
    (f32Fin s.regs.opb = false ∨ f32Lt s.regs.opb F32.zero = true ∨ f32Lt ⟨0x3F800000#32⟩ s.regs.opb = true) →
    exec i s = .next { s with regs :=
      { s.regs with errcode := 4, errcmd := encode i, status := s.regs.status ||| 1#32 } }

/-- R111, R158: in the clock loop the accumulator handed to an emission is a legal `tau`. -/
def Obligations.EmissionTauIsInRange : Prop :=
  ∀ (r : Regs F32) (z : Cx F32), AccSound r →
    f32Lt ⟨0x3F800000#32⟩ (accGuard binary32 (takeSample binary32 z r)).cr.loop.acc = false →
    tauBad binary32 (accGuard binary32 (takeSample binary32 z r)).cr.loop.acc = false

/-! ## Timing error detector -/

/-- R131, R132, R134, R135, R137: `TED_EVAL` writes the live kind's error of the newest entries of the secondary
window to `RES_E`, and nothing else. -/
def Obligations.TedEvalComputesTheLiveKindsError : Prop :=
  ∀ s : State, s.regs.cr.derived.cfgOk = 1 →
    let cr := s.regs.cr
    let x := fun i => vget ⟨F32.zero, F32.zero⟩ cr.loop.s
      ((cr.loop.shead.toNat + cr.live.slen.toNat - 1 - i) % cr.live.slen.toNat)
    let d := fun z => nearest binary32 cr.cm.toNat cr.cpt z
    let reMulConj := fun (a b : Cx F32) => f32Sub (f32Mul a.i b.i) (f32Mul a.q (f32Neg b.q))
    let mag := fun (a : Cx F32) => f32Add (f32Mul a.i a.i) (f32Mul a.q a.q)
    let result := fun e => Host.Outcome.next (φ := Fault) (ρ := Refusal)
      { s with regs := { s.regs with errcode := 0, resE := e } }
    (cr.live.ted = 0 → exec .tedEval s =
      result (reMulConj ⟨f32Sub (x 0).i (x 2).i, f32Sub (x 0).q (x 2).q⟩ (x 1))) ∧
    (cr.live.ted = 1 → exec .tedEval s =
      result (f32Sub (reMulConj (x 1) (d (x 0))) (reMulConj (x 0) (d (x 1))))) ∧
    (cr.live.ted = 2 → exec .tedEval s = result (f32Sub (mag (x 3)) (mag (x 1))))

/-- R133: the nearest point is one of the first `m`, none of them is strictly closer, and every point of a lower
index is strictly farther. -/
def Obligations.NearestPointIsClosestWithLowestIndex : Prop :=
  ∀ (m : Nat) (pts : Vector (Cx F32) Config.maxM) (z : Cx F32), 1 ≤ m → m ≤ 64 →
    let dist := fun i => mag2 binary32 (subC binary32 z (constPoint binary32 pts i))
    (∀ i < m, f32IsNaN (dist i) = false) →
    ∃ k < m, nearest binary32 m pts z = constPoint binary32 pts k ∧
      (∀ i < m, f32Le (dist k) (dist i) = true) ∧ (∀ i < k, f32Lt (dist k) (dist i) = true)

/-! ## Clock recovery -/

/-- R157, R158, R159: a `CR_PUSH` whose accumulator stays above 1. -/
def Obligations.CrPushAwaitsAboveOne : Prop :=
  ∀ s : State, s.regs.cr.derived.cfgOk = 1 →
    let ok := f32Fin s.regs.opa.i && f32Fin s.regs.opa.q
    let z : Cx F32 := if ok then s.regs.opa else ⟨F32.zero, F32.zero⟩
    let l := s.regs.cr.loop
    let a := f32Sub l.acc ⟨0x3F800000#32⟩
    f32Lt ⟨0x3F800000#32⟩ a = true →
    exec .crPush s = .next { s with regs :=
      { s.regs with
        errcode := 0
        status := if ok then s.regs.status else s.regs.status ||| 4#32
        cr := { s.regs.cr with loop := { l with
          w := vput l.w l.whead.toNat z
          whead := ringNext l.whead s.regs.cr.live.wlen
          nin := l.nin + 1, outValid := 0, acc := a } } } }

/-- R157, R158, R160: a `CR_PUSH` that emits, but not the symbol's last emission. `u` is the unit with the sample
pushed; a negative accumulator is clamped to 0 and flagged. -/
def Obligations.CrPushEmitsBetweenSymbols : Prop :=
  ∀ s : State, s.regs.cr.derived.cfgOk = 1 →
    let ok := f32Fin s.regs.opa.i && f32Fin s.regs.opa.q
    let z : Cx F32 := if ok then s.regs.opa else ⟨F32.zero, F32.zero⟩
    let l := s.regs.cr.loop
    let d := f32Sub l.acc ⟨0x3F800000#32⟩
    let neg := f32Lt d F32.zero
    let a := if neg then F32.zero else d
    let u := pushW z s.regs.cr
    let y := itrpEval binary32 u a
    let cnt := ringNext l.cnt s.regs.cr.derived.osfTed
    let st := if ok then s.regs.status else s.regs.status ||| 4#32
    f32Lt ⟨0x3F800000#32⟩ a = false → cnt ≠ 0 →
    exec .crPush s = .next { s with regs :=
      { s.regs with
        errcode := 0
        status := if neg then st ||| 2#32 else st
        cr := { s.regs.cr with loop := { l with
          w := vput l.w l.whead.toNat z
          whead := ringNext l.whead s.regs.cr.live.wlen
          s := vput l.s l.shead.toNat y
          shead := ringNext l.shead s.regs.cr.live.slen
          nin := l.nin + 1, outValid := 0
          acc := f32Add a s.regs.cr.derived.ratio, cnt := cnt } } } }

/-- R157, R158, R160 to R162: a `CR_PUSH` that completes a symbol: the correction `g * e`, a NaN taken as 0,
clamped to a quarter of `OSF_in` either way, subtracted from the accumulator and added to `CR_THETA`. `u2` is the
unit with the sample and the emission pushed. -/
def Obligations.CrPushCompletesASymbol : Prop :=
  ∀ s : State, s.regs.cr.derived.cfgOk = 1 →
    let ok := f32Fin s.regs.opa.i && f32Fin s.regs.opa.q
    let z : Cx F32 := if ok then s.regs.opa else ⟨F32.zero, F32.zero⟩
    let l := s.regs.cr.loop
    let d := f32Sub l.acc ⟨0x3F800000#32⟩
    let neg := f32Lt d F32.zero
    let a := if neg then F32.zero else d
    let u := pushW z s.regs.cr
    let y := itrpEval binary32 u a
    let u2 := pushS y u
    let e := ted binary32 u2
    let q := f32Mul s.regs.cr.live.osfIn ⟨0x3E800000#32⟩
    let raw := f32Mul s.regs.cr.derived.g e
    let v := if f32IsNaN raw then F32.zero else raw
    let v1 := if f32Lt v (f32Sub F32.zero q) then f32Sub F32.zero q else v
    let dec := if f32Lt q v1 then q else v1
    let a2 := f32Sub (f32Add a s.regs.cr.derived.ratio) dec
    let neg2 := f32Lt a2 F32.zero
    let st := if ok then s.regs.status else s.regs.status ||| 4#32
    let st1 := if neg then st ||| 2#32 else st
    let st2 := if f32IsNaN raw then st1 ||| 4#32 else st1
    f32Lt ⟨0x3F800000#32⟩ a = false → ringNext l.cnt s.regs.cr.derived.osfTed = 0 →
    exec .crPush s = .next { s with regs :=
      { s.regs with
        errcode := 0
        status := if neg2 then st2 ||| 2#32 else st2
        cr := { s.regs.cr with loop := { l with
          w := vput l.w l.whead.toNat z
          whead := ringNext l.whead s.regs.cr.live.wlen
          s := vput l.s l.shead.toNat y
          shead := ringNext l.shead s.regs.cr.live.slen
          nin := l.nin + 1
          acc := if neg2 then F32.zero else a2
          cnt := 0
          theta := f32Add l.theta dec
          lastE := e, lastDec := dec, out := y, outValid := 1, nout := l.nout + 1 } } } }

/-- R161: the applied correction is a finite number between minus and plus a quarter of `OSF_in`, whatever the
timing error is. -/
def Obligations.CorrectionIsClamped : Prop :=
  ∀ (cr : CrUnit F32) (e : F32), f32Fin cr.live.osfIn = true →
    f32Le ⟨0x3F800000#32⟩ cr.live.osfIn = true →
    f32Fin (correction binary32 cr e) = true ∧
    f32Le (f32Sub F32.zero (f32Mul cr.live.osfIn ⟨0x3E800000#32⟩)) (correction binary32 cr e) = true ∧
    f32Le (correction binary32 cr e) (f32Mul cr.live.osfIn ⟨0x3E800000#32⟩) = true

/-! ## Carrier recovery -/

/-- R181 to R185: `PED_EVAL` writes the live mode's error to `RES_E`, and the decision or the sample to `RES`; a
non-finite operand is replaced by `0c` and flagged. -/
def Obligations.PedEvalComputesTheLiveModesError : Prop :=
  ∀ s : State, s.regs.pll.cfgOk = 1 →
    let ok := f32Fin s.regs.opa.i && f32Fin s.regs.opa.q
    let y : Cx F32 := if ok then s.regs.opa else ⟨F32.zero, F32.zero⟩
    let argOf := fun (z : Cx F32) =>
      if f32Eq z.i F32.zero && f32Eq z.q F32.zero then F32.zero else Config.atan2 z.q z.i
    let d := nearest binary32 s.regs.pll.cm.toNat s.regs.pll.cpt y
    let st := if ok then s.regs.status else s.regs.status ||| 4#32
    (s.regs.pll.live.ped = 0 → exec .pedEval s = .next { s with regs :=
      { s.regs with errcode := 0, status := st, resE := argOf y, res := y } }) ∧
    (s.regs.pll.live.ped = 1 → exec .pedEval s = .next { s with regs :=
      { s.regs with
        errcode := 0, status := st, res := d
        resE := argOf ⟨f32Sub (f32Mul y.i d.i) (f32Mul y.q (f32Neg d.q)),
          f32Add (f32Mul y.i (f32Neg d.q)) (f32Mul y.q d.i)⟩ } })

/-- R196, R198, R201, R202, R203: `LF_STEP` in first and in second order; a non-finite `OPB` is replaced by 0 and
flagged. -/
def Obligations.LfStepUpdatesTheFilter : Prop :=
  ∀ s : State, s.regs.pll.cfgOk = 1 →
    let ok := f32Fin s.regs.opb
    let e := if ok then s.regs.opb else F32.zero
    let st := if ok then s.regs.status else s.regs.status ||| 4#32
    let p := s.regs.pll
    (p.live.order = 1 → exec .lfStep s = .next { s with regs :=
      { s.regs with
        errcode := 0, status := st, resE := f32Mul p.live.alpha e
        pll := { p with loop := { p.loop with
          theta := wrapPi binary32 (f32Add p.loop.theta (f32Mul p.live.alpha e)), eprev := e } } } }) ∧
    (p.live.order = 2 → exec .lfStep s = .next { s with regs :=
      { s.regs with
        errcode := 0, status := st, resE := p.loop.mu
        pll := { p with loop := { p.loop with
          theta := wrapPi binary32 (f32Add p.loop.theta p.loop.mu)
          mu := f32Add p.loop.mu
            (f32Mul p.gamma (f32Sub (f32Mul (f32Add ⟨0x3F800000#32⟩ p.rho) e) p.loop.eprev))
          eprev := e } } } })

/-- R204 to R207: `NCO_STEP`; a non-finite `OPB` is replaced by 0 and flagged. -/
def Obligations.NcoStepAdvancesThePhase : Prop :=
  ∀ s : State, s.regs.pll.cfgOk = 1 →
    let ok := f32Fin s.regs.opb
    let d := if ok then s.regs.opb else F32.zero
    let p := s.regs.pll
    let sum := f32Add (f32Add p.loop.phi p.live.w0) d
    let phi := f32Sub sum (f32Mul ⟨0x40C90FDB#32⟩
      (f32Floor (f32Div (f32Add sum ⟨0x40490FDB#32⟩) ⟨0x40C90FDB#32⟩)))
    exec .ncoStep s = .next { s with regs :=
      { s.regs with
        errcode := 0
        status := if ok then s.regs.status else s.regs.status ||| 4#32
        res := ⟨Config.cos phi, Config.sin phi⟩
        pll := { p with loop := { p.loop with phi := phi } } } }

/-- R224 to R226: `PLL_PUSH`: derotation by the phase held before the update, the phase error, the filter, the
NCO, and the selected output. -/
def Obligations.PllPushTracksOneSample : Prop :=
  ∀ s : State, s.regs.pll.cfgOk = 1 →
    let ok := f32Fin s.regs.opa.i && f32Fin s.regs.opa.q
    let z : Cx F32 := if ok then s.regs.opa else ⟨F32.zero, F32.zero⟩
    let p := s.regs.pll
    let c : Cx F32 := ⟨Config.cos p.loop.phi, Config.sin p.loop.phi⟩
    let y : Cx F32 := ⟨f32Sub (f32Mul z.i c.i) (f32Mul z.q (f32Neg c.q)),
      f32Add (f32Mul z.i (f32Neg c.q)) (f32Mul z.q c.i)⟩
    let e := ped binary32 p y
    let delta := if p.live.order = 1 then f32Mul p.live.alpha e else p.loop.mu
    exec .pllPush s = .next { s with regs :=
      { s.regs with
        errcode := 0
        status := if ok then s.regs.status else s.regs.status ||| 4#32
        pll := { p with loop :=
          { theta := wrapPi binary32 (f32Add p.loop.theta delta)
            mu := if p.live.order = 1 then p.loop.mu else
              f32Add p.loop.mu (f32Mul p.gamma (f32Sub (f32Mul (f32Add ⟨0x3F800000#32⟩ p.rho) e) p.loop.eprev))
            eprev := e
            phi := wrapPi binary32 (f32Add (f32Add p.loop.phi p.live.w0) delta)
            out := if p.live.outsel = 0 then y else c
            lastE := e
            nin := p.loop.nin + 1 } } } }

/-- R223, R227: after `PLL_RESET` the same samples give the same outputs, bit for bit, whatever ran before: two
cores with the same PLL configuration agree on the PLL unit after every sequence of pushes. -/
def Obligations.PllResetMakesStreamsRepeatable : Prop :=
  ∀ (r1 r2 : Regs F32) (zs : List (Cx F32)), r1.pll.cfgOk = 1 → r2.pll.cfgOk = 1 →
    r1.pll.live = r2.pll.live → r1.pll.gamma = r2.pll.gamma → r1.pll.rho = r2.pll.rho →
    r1.pll.cm = r2.pll.cm → r1.pll.cpt = r2.pll.cpt →
    (pllPushAll binary32 (command binary32 .pllReset r1) zs).pll =
      (pllPushAll binary32 (command binary32 .pllReset r2) zs).pll

/-! ## Numerics -/

/-- R9: `+`, `-`, `*` and `/` of finite binary32 values round to nearest, ties to even. Values are in units of
2^-149. The result is finite exactly when the exact one is below `(2^25 - 1) * 2^252` units, half a step above the
largest finite value `(2^24 - 1) * 2^253`; then no finite value `c` is nearer to the exact result, and when one is
equally near the result has an even fraction. Otherwise the result is the infinity of the exact one's sign. That an
overflow gives an infinity is IEEE 754's rule, not spelled out by the spec (log 5). -/
def Obligations.ArithmeticRoundsToNearestEven : Prop :=
  ∀ a b : F32, f32Fin a = true → f32Fin b = true →
    let rounds := fun (r : F32) (exactNum scale : Int) =>
      (f32Fin r = true ↔ |exactNum| < (2 ^ 25 - 1) * 2 ^ 252 * |scale|) ∧
      (f32Fin r = false → r = if exactNum * scale < 0 then ⟨0xFF800000#32⟩ else ⟨0x7F800000#32⟩) ∧
      (f32Fin r = true → ∀ c : F32, f32Fin c = true →
        |f32ToInt r * scale - exactNum| ≤ |f32ToInt c * scale - exactNum| ∧
        (|f32ToInt r * scale - exactNum| = |f32ToInt c * scale - exactNum| → f32ToInt c ≠ f32ToInt r →
          f32Frac r % 2 = 0))
    rounds (f32Add a b) (f32ToInt a + f32ToInt b) 1 ∧
    rounds (f32Sub a b) (f32ToInt a - f32ToInt b) 1 ∧
    rounds (f32Mul a b) (f32ToInt a * f32ToInt b) (2 ^ 149) ∧
    (f32ToInt b ≠ 0 → rounds (f32Div a b) (f32ToInt a * 2 ^ 149) (f32ToInt b))

/-! ## The exact domain -/

/-- R112: in `Exact` the taps of `LINEAR`, `CSPLINE` and `LAGRANGE` sum to 1, and so do those of a normalised
`SINC` row. -/
def Obligations.ExactTapsSumToOne : Prop :=
  (∀ (cr : CrUnit ℝ) (tau : ℝ), cr.live.kind.toNat ≤ 2 → 0 ≤ tau → tau ≤ 1 →
    (cr.live.kind = 2 → 1 ≤ cr.live.deg.toNat ∧ cr.live.deg.toNat ≤ 31) →
    sumTo exact (tapCount cr.live) (tap exact cr tau) = 1) ∧
  (∀ (k nph p : Nat) (fc : ℝ), k ≤ 32 → sumTo exact k (sincRaw exact k nph fc p) ≠ 0 →
    sumTo exact k (fun j => vget 0 (sincRow exact k nph fc p) j) = 1)

/-- R103 to R107, R112: in `Exact` every kind is interpolating at the ends: `tau = 0` gives the unit tap at `P`,
`tau = 1` the one at `P + 1`; for `SINC` with `FC = 0.5` and the phase table that a commit builds. -/
def Obligations.ExactTapsInterpolateAtTheEnds : Prop :=
  ∀ (cr : CrUnit ℝ), cr.live.kind.toNat ≤ 3 →
    (cr.live.kind = 2 → 1 ≤ cr.live.deg.toNat ∧ cr.live.deg.toNat ≤ 31) →
    (cr.live.kind = 3 → cr.tab = phaseTable exact cr.live ∧ cr.live.sincFc = 1 / 2 ∧
      cr.live.sincK.toNat % 2 = 0 ∧ 4 ≤ cr.live.sincK.toNat ∧ cr.live.sincK.toNat ≤ 32 ∧
      1 ≤ cr.live.sincNph.toNat ∧ cr.live.sincNph.toNat ≤ 256) →
    ∀ j < tapCount cr.live,
      tap exact cr 0 j = (if j = delayOf cr.live then 1 else 0) ∧
      tap exact cr 1 j = (if j = delayOf cr.live + 1 then 1 else 0)

/-- R11, R43, R202: in `Exact` `wrap_pi` gives an angle in `[-PI, PI)`, equal to its argument modulo `2*PI`. -/
def Obligations.ExactWrapPiIsTheHalfOpenInterval : Prop :=
  ∀ p : ℝ, -Real.pi ≤ wrapPi exact p ∧ wrapPi exact p < Real.pi ∧
    ∃ n : ℤ, wrapPi exact p = p - 2 * Real.pi * n

/-- R186: in `Exact` the phase error lies in `(-PI, PI]` in both modes. -/
def Obligations.ExactPhaseErrorIsBounded : Prop :=
  ∀ (u : PllUnit ℝ) (y : Cx ℝ), -Real.pi < ped exact u y ∧ ped exact u y ≤ Real.pi

/-- R153: in `Exact`, `0 < g < 1/tc`. -/
def Obligations.ExactLoopGainBounds : Prop :=
  ∀ osfIn tc : ℝ, 0 < osfIn → 0 < tc → 0 < loopGain exact osfIn tc ∧ loopGain exact osfIn tc < 1 / tc

/-- R197: in `Exact` the first-order filter follows the ramp `n * alpha` under the constant error 1, and
`1 - (1 - alpha)^n` when its error is the residual of a unit step. -/
def Obligations.ExactFirstOrderStepResponse : Prop :=
  ∀ (u : PllUnit ℝ) (n : Nat), u.live.order = 1 → u.loop.theta = 0 →
    ((fun v => lfUpdate exact v 1)^[n] u).loop.theta = wrapPi exact (n * u.live.alpha) ∧
    (0 ≤ u.live.alpha → u.live.alpha ≤ 2 →
      ((fun v => lfUpdate exact v (1 - v.loop.theta))^[n] u).loop.theta = 1 - (1 - u.live.alpha) ^ n)

/-- R228: in `Exact`, after a reset and any `PLL_PUSH` sequence, or any sequence of `LF_STEP` each followed by
`NCO_STEP` with the returned increment, `PLL_PHI = wrap_pi(PLL_THETA + n * w0)`; with `w0 = 0`,
`PLL_PHI = PLL_THETA`. -/
def Obligations.ExactPhaseTracking : Prop :=
  ∀ (r : Regs ℝ) (zs : List (Cx ℝ)) (es : List ℝ), r.pll.cfgOk = 1 →
    let t := pllPushAll exact (command exact .pllReset r) zs
    let v := filterAll exact (command exact .pllReset r) es
    t.pll.loop.phi = wrapPi exact (t.pll.loop.theta + zs.length * r.pll.live.w0) ∧
    v.pll.loop.phi = wrapPi exact (v.pll.loop.theta + es.length * r.pll.live.w0) ∧
    (r.pll.live.w0 = 0 → t.pll.loop.phi = t.pll.loop.theta ∧ v.pll.loop.phi = v.pll.loop.theta)

/-- R163: in `Exact`, from any commit or reset, if `OSF_in >= 2` and `OSF_in * (1/OSF_ted - 1/4) >= 1` then
`acc_guard()` never changes `CR_ACC`: after every `CR_PUSH` sequence the accumulator is at least 1, so the next
decrement leaves it non-negative, and `ACC_NEG` is as it was. -/
def Obligations.ExactAccumulatorNeverClamps : Prop :=
  ∀ (r : Regs ℝ) (zs : List (Cx ℝ)), CrSound exact r → r.cr.derived.cfgOk = 1 →
    2 ≤ r.cr.live.osfIn → 1 ≤ r.cr.live.osfIn * (1 / (tedOsf r.cr.live : ℝ) - 1 / 4) →
    r.cr.loop.acc = r.cr.live.osfIn / 2 →
    let t := crPushAll exact r zs
    1 ≤ t.cr.loop.acc ∧ hasFlag .accNeg t = hasFlag .accNeg r

/-- R164: in `Exact`, on a stream whose every correction is 0 (here the all-zero stream, from a reset) and under
R163's condition, after `n >= 1` pushes the number of output symbols is
`floor((n + 1 + RATIO - OSF_in/2) / OSF_in)`. -/
def Obligations.ExactOutputCount : Prop :=
  ∀ (r : Regs ℝ) (n : Nat), CrSound exact r → r.cr.derived.cfgOk = 1 →
    2 ≤ r.cr.live.osfIn → 1 ≤ r.cr.live.osfIn * (1 / (tedOsf r.cr.live : ℝ) - 1 / 4) →
    1 ≤ n → n < 2 ^ 32 →
    ((crPushAll exact (command exact .crReset r) (List.replicate n ⟨0, 0⟩)).cr.loop.nout.toNat : ℤ) =
      ⌊((n : ℝ) + 1 + r.cr.derived.ratio - r.cr.live.osfIn / 2) / r.cr.live.osfIn⌋
end

