-- ==== Sys2Proof/Laws/Binary32.lean ====
section
/-! SUPPORT. Facts about binary32 arithmetic that proofs cite: the operations of `binary32` by name, the
fields of a packed value, the bounds of a rounding, and when a result is a number. -/

namespace Sys2Proof.Machine

@[simp] theorem binary32_ofNat : binary32.ofNat = f32OfNat := rfl
@[simp] theorem binary32_add : binary32.add = f32Add := rfl
@[simp] theorem binary32_sub : binary32.sub = f32Sub := rfl
@[simp] theorem binary32_neg : binary32.neg = f32Neg := rfl
@[simp] theorem binary32_mul : binary32.mul = f32Mul := rfl
@[simp] theorem binary32_div : binary32.div = f32Div := rfl
@[simp] theorem binary32_lt : binary32.lt = f32Lt := rfl
@[simp] theorem binary32_le : binary32.le = f32Le := rfl
@[simp] theorem binary32_eq : binary32.eq = f32Eq := rfl
@[simp] theorem binary32_floor : binary32.floor = f32Floor := rfl
@[simp] theorem binary32_fin : binary32.fin = f32Fin := rfl
@[simp] theorem binary32_isNaN : binary32.isNaN = f32IsNaN := rfl
@[simp] theorem binary32_toNat : binary32.toNat? = f32ToNat? := rfl

/-- The constant 0 of the domain is `+0`. -/
@[simp] theorem zeroOf_binary32 : zeroOf binary32 = F32.zero := by decide

/-- The constant 1 of the domain is the word 0x3F800000 (30_encoding.md R96). -/
@[simp] theorem oneOf_binary32 : oneOf binary32 = ⟨0x3F800000#32⟩ := by decide

/-- The NaN that an operation delivers is a NaN, whichever it is. -/
@[simp] theorem f32IsNaN_f32NaN (src : Config.NanSource) (a b : F32) : f32IsNaN (f32NaN src a b) = true := by
  unfold f32NaN
  split
  · assumption
  · decide

/-- The sign of a packed value. -/
@[simp] theorem f32Sign_pack (neg : Bool) (m : Nat) : f32Sign (f32Pack neg m) = neg := by
  cases neg <;> (simp only [f32Sign, f32Pack]; rw [BitVec.getLsbD_append]; simp)

/-- The exponent field of a packed value. -/
theorem f32Exp_pack (neg : Bool) (m : Nat) : f32Exp (f32Pack neg m) = m / 2 ^ 23 % 256 := by
  unfold f32Exp f32Pack
  simp only [BitVec.extractLsb'_toNat, BitVec.toNat_append, BitVec.toNat_ofBool, BitVec.toNat_ofNat]
  rw [Nat.shiftRight_eq_div_pow, ← Nat.shiftLeft_add_eq_or_of_lt (by omega), Nat.shiftLeft_eq]
  cases neg <;> simp only [Bool.toNat_false, Bool.toNat_true] <;> omega

/-- The fraction field of a packed value. -/
theorem f32Frac_pack (neg : Bool) (m : Nat) : f32Frac (f32Pack neg m) = m % 2 ^ 23 := by
  unfold f32Frac f32Pack
  simp only [BitVec.extractLsb'_toNat, BitVec.toNat_append, BitVec.toNat_ofBool, BitVec.toNat_ofNat]
  rw [Nat.shiftRight_eq_div_pow, ← Nat.shiftLeft_add_eq_or_of_lt (by omega), Nat.shiftLeft_eq]
  cases neg <;> simp only [Bool.toNat_false, Bool.toNat_true] <;> omega

/-- A rounded magnitude is at most infinity's. -/
theorem roundMag_le (n d : Nat) : roundMag n d ≤ infMag := Nat.min_le_right _ _

/-- A packed magnitude of at most infinity's is not NaN. -/
theorem f32IsNaN_pack (neg : Bool) (m : Nat) (h : m ≤ infMag) : f32IsNaN (f32Pack neg m) = false := by
  have hm : m ≤ 255 * 2 ^ 23 := h
  simp only [f32IsNaN, f32Exp_pack, f32Frac_pack, Bool.and_eq_false_iff, beq_eq_false_iff_ne, bne_eq_false_iff_eq]
  omega

/-- A packed magnitude below infinity's is finite. -/
theorem f32Fin_pack (neg : Bool) (m : Nat) (h : m < infMag) : f32Fin (f32Pack neg m) = true := by
  have hm : m < 255 * 2 ^ 23 := h
  simp only [f32Fin, f32Exp_pack, bne_iff_ne]
  omega

/-- A rounding never delivers NaN. -/
@[simp] theorem f32IsNaN_round (neg : Bool) (n d : Nat) : f32IsNaN (f32Round neg n d) = false :=
  f32IsNaN_pack neg _ (roundMag_le n d)

/-- The sign of a rounding is the one it is given. -/
@[simp] theorem f32Sign_round (neg : Bool) (n d : Nat) : f32Sign (f32Round neg n d) = neg := f32Sign_pack _ _

@[simp] theorem f32IsNaN_zero (neg : Bool) : f32IsNaN (f32Zero neg) = false := by cases neg <;> decide

@[simp] theorem f32IsNaN_inf (neg : Bool) : f32IsNaN (f32Inf neg) = false := by cases neg <;> decide

/-- A finite value is not NaN. -/
theorem f32IsNaN_of_fin {x : F32} (h : f32Fin x = true) : f32IsNaN x = false := by
  simp only [f32Fin, bne_iff_ne] at h
  simp [f32IsNaN, h]

/-- A finite value is not infinite. -/
theorem f32IsInf_of_fin {x : F32} (h : f32Fin x = true) : f32IsInf x = false := by
  simp only [f32Fin, bne_iff_ne] at h
  simp [f32IsInf, h]

/-- A value that is neither NaN nor infinite is finite. -/
theorem f32Fin_of_not {x : F32} (h : f32IsNaN x = false) (h' : f32IsInf x = false) : f32Fin x = true := by
  simp only [f32IsNaN, f32IsInf, Bool.and_eq_false_iff, beq_eq_false_iff_ne, bne_eq_false_iff_eq] at h h'
  simp only [f32Fin, bne_iff_ne]
  omega

/-- Unary minus inverts the sign and keeps the rest. -/
theorem f32Neg_fields (x : F32) :
    f32Sign (f32Neg x) = !f32Sign x ∧ f32Exp (f32Neg x) = f32Exp x ∧ f32Frac (f32Neg x) = f32Frac x := by
  refine ⟨by simp [f32Sign, f32Neg], ?_, ?_⟩ <;>
  · simp only [f32Exp, f32Frac, f32Neg]
    congr 1
    ext i hi
    have h1 : (0x80000000#32).getLsbD i = false := by
      have : ∀ j : Fin 31, (0x80000000#32).getLsbD j.val = false := by decide
      exact this ⟨i, by omega⟩
    have h2 : ∀ j : Fin 31, (0x80000000#32).getLsbD j.val = false := by decide
    first
      | simp [BitVec.getElem_extractLsb', h2 ⟨23 + i, by omega⟩]
      | simp [BitVec.getElem_extractLsb', h2 ⟨i, by omega⟩]

@[simp] theorem f32IsNaN_neg (x : F32) : f32IsNaN (f32Neg x) = f32IsNaN x := by
  simp [f32IsNaN, f32Neg_fields]

@[simp] theorem f32IsInf_neg (x : F32) : f32IsInf (f32Neg x) = f32IsInf x := by
  simp [f32IsInf, f32Neg_fields]

@[simp] theorem f32Fin_neg (x : F32) : f32Fin (f32Neg x) = f32Fin x := by
  simp [f32Fin, f32Neg_fields]

@[simp] theorem f32Mag_neg (x : F32) : f32Mag (f32Neg x) = f32Mag x := by
  simp [f32Mag, f32Neg_fields]

/-- Unary minus negates the value. -/
@[simp] theorem f32ToInt_neg (x : F32) : f32ToInt (f32Neg x) = -f32ToInt x := by
  cases h : f32Sign x <;> simp [f32ToInt, f32Neg_fields, h]

/-- A sum of a number and a finite value is a number. -/
theorem f32IsNaN_addAs {src : Config.NanSource} {a b x : F32} (ha : f32IsNaN a = false)
    (hb : f32Fin b = true) : f32IsNaN (f32AddAs src a b x) = false := by
  simp only [f32AddAs, ha, f32IsNaN_of_fin hb, f32IsInf_of_fin hb, Bool.or_self, Bool.false_and, f32AddFin]
  split
  · contradiction
  · split
    · exact ha
    · split <;> simp

/-- A sum with a finite second operand is a number when the first is. -/
theorem f32IsNaN_add {a b : F32} (ha : f32IsNaN a = false) (hb : f32Fin b = true) :
    f32IsNaN (f32Add a b) = false := f32IsNaN_addAs ha hb

/-- A difference with a finite second operand is a number when the first is. -/
theorem f32IsNaN_sub {a b : F32} (ha : f32IsNaN a = false) (hb : f32Fin b = true) :
    f32IsNaN (f32Sub a b) = false := f32IsNaN_addAs ha (by simpa using hb)

/-- A product of finite values is a number. -/
theorem f32IsNaN_mul {a b : F32} (ha : f32Fin a = true) (hb : f32Fin b = true) :
    f32IsNaN (f32Mul a b) = false := by
  simp [f32Mul, f32IsNaN_of_fin ha, f32IsNaN_of_fin hb, f32IsInf_of_fin ha, f32IsInf_of_fin hb]

/-- A quotient of finite values is a number when the divisor is not zero. -/
theorem f32IsNaN_div {a b : F32} (ha : f32Fin a = true) (hb : f32Fin b = true) (h0 : f32Mag b ≠ 0) :
    f32IsNaN (f32Div a b) = false := by
  simp [f32Div, f32IsNaN_of_fin ha, f32IsNaN_of_fin hb, f32IsInf_of_fin ha, f32IsInf_of_fin hb, h0]

/-- `<=` on numbers is the order of the values. -/
theorem f32Le_iff {a b : F32} :
    f32Le a b = true ↔ f32IsNaN a = false ∧ f32IsNaN b = false ∧ f32ToInt a ≤ f32ToInt b := by
  simp [f32Le, and_assoc]

/-- `<` on numbers is the order of the values. -/
theorem f32Lt_iff {a b : F32} :
    f32Lt a b = true ↔ f32IsNaN a = false ∧ f32IsNaN b = false ∧ f32ToInt a < f32ToInt b := by
  simp [f32Lt, and_assoc]

/-- On numbers, not less is at least. -/
theorem f32Le_of_not_lt {a b : F32} (ha : f32IsNaN a = false) (hb : f32IsNaN b = false)
    (h : f32Lt a b = false) : f32Le b a = true := by
  simp only [f32Lt, ha, hb, Bool.not_false, Bool.true_and, decide_eq_false_iff_not] at h
  simp only [f32Le, ha, hb, Bool.not_false, Bool.true_and, decide_eq_true_eq]
  omega

/-- The exponent field has eight bits. -/
theorem f32Exp_lt (x : F32) : f32Exp x < 256 := (x.bits.extractLsb' 23 8).isLt

/-- The fraction field has 23 bits. -/
theorem f32Frac_lt (x : F32) : f32Frac x < 2 ^ 23 := (x.bits.extractLsb' 0 23).isLt

/-- The largest finite magnitude. -/
theorem f32Mag_le {x : F32} (h : f32Fin x = true) : f32Mag x ≤ (2 ^ 24 - 1) * 2 ^ 253 := by
  simp only [f32Fin, bne_iff_ne] at h
  have h1 := f32Exp_lt x
  have h2 := f32Frac_lt x
  unfold f32Mag
  split
  · omega
  · exact Nat.mul_le_mul (by omega) (Nat.pow_le_pow_right (by norm_num) (by omega))

/-- A rounded quotient is the floor or the next integer, and the floor when the division is exact. -/
theorem roundNearestEven_cases (n u : Nat) :
    roundNearestEven n u = n / u ∨ (roundNearestEven n u = n / u + 1 ∧ 0 < n % u) := by
  unfold roundNearestEven
  split
  · exact .inl rfl
  · rename_i h
    refine .inr ⟨rfl, ?_⟩
    by_contra h0
    apply h
    have : n % u = 0 := by omega
    rw [this]
    by_cases hu : u = 0
    · subst hu
      have : n = 0 := by simpa using this
      subst this; right; simp
    · left; omega

/-- An exact quotient is not moved by the rounding. -/
theorem roundNearestEven_exact (m u : Nat) (hu : 0 < u) : roundNearestEven (m * u) u = m := by
  rcases roundNearestEven_cases (m * u) u with h | ⟨_, h⟩
  · rw [h, Nat.mul_div_cancel _ hu]
  · simp at h

/-- The quotient that is rounded has at most 24 bits. -/
theorem quotient_lt (n d : Nat) : n / (d * 2 ^ roundStep n d) < 2 ^ 24 := by
  rw [← Nat.div_div_eq_div_mul, Nat.div_lt_iff_lt_mul (by positivity), ← pow_add]
  by_cases h0 : n / d = 0
  · rw [h0]; positivity
  · refine lt_of_lt_of_le (Nat.lt_log2_self (n := n / d)) (Nat.pow_le_pow_right (by norm_num) ?_)
    unfold roundStep; omega

/-- Above step 0, the quotient that is rounded has exactly 24 bits. -/
theorem le_quotient (n d : Nat) (h : 0 < roundStep n d) : 2 ^ 23 ≤ n / (d * 2 ^ roundStep n d) := by
  have h0 : n / d ≠ 0 := by
    intro h0; simp [roundStep, h0] at h
  rw [← Nat.div_div_eq_div_mul, Nat.le_div_iff_mul_le (by positivity), ← pow_add]
  have := Nat.log2_self_le h0
  rwa [show 23 + roundStep n d = (n / d).log2 by unfold roundStep at *; omega]

/-- A quotient of at most the largest finite magnitude rounds to a finite value. -/
theorem roundMag_lt (n d : Nat) (hd : 0 < d) (h : n ≤ (2 ^ 24 - 1) * 2 ^ 253 * d) : roundMag n d < infMag := by
  have hstep : roundStep n d ≤ 253 := by
    by_contra hs
    have h1 := le_quotient n d (by omega)
    rw [Nat.le_div_iff_mul_le (by positivity)] at h1
    have h2 : 2 ^ 254 ≤ 2 ^ roundStep n d := Nat.pow_le_pow_right (by norm_num) (by omega)
    have h3 : 2 ^ 23 * (d * 2 ^ 254) ≤ 2 ^ 23 * (d * 2 ^ roundStep n d) := by gcongr
    have h4 : (2 ^ 24 - 1) * 2 ^ 253 * d < 2 ^ 23 * (d * 2 ^ 254) := by
      have hp : 0 < 2 ^ 253 := by positivity
      rw [show 2 ^ 254 = 2 * 2 ^ 253 from pow_succ' 2 253]
      generalize 2 ^ 253 = p at hp
      have : 0 < p * d := Nat.mul_pos hp hd
      calc (2 ^ 24 - 1) * p * d = (2 ^ 24 - 1) * (p * d) := Nat.mul_assoc _ _ _
        _ < 2 ^ 24 * (p * d) := by omega
        _ = 2 ^ 23 * (d * (2 * p)) := by ring
    omega
  have hq := quotient_lt n d
  have hr : roundNearestEven n (d * 2 ^ roundStep n d) ≤ 2 ^ 24 := by
    rcases roundNearestEven_cases n (d * 2 ^ roundStep n d) with h | ⟨h, _⟩ <;> omega
  unfold roundMag infMag
  refine lt_of_le_of_lt (Nat.min_le_left _ _) ?_
  by_cases hs : roundStep n d = 253
  · have hr' : roundNearestEven n (d * 2 ^ roundStep n d) ≤ 2 ^ 24 - 1 := by
      rcases roundNearestEven_cases n (d * 2 ^ roundStep n d) with h' | ⟨h', h''⟩
      · omega
      · have hm := Nat.div_add_mod n (d * 2 ^ roundStep n d)
        have : n / (d * 2 ^ roundStep n d) < 2 ^ 24 - 1 := by
          rw [Nat.div_lt_iff_lt_mul (by positivity)]
          by_contra hc
          have he : n = (2 ^ 24 - 1) * (d * 2 ^ roundStep n d) := by
            apply le_antisymm
            · rw [hs]; calc n ≤ _ := h
                _ = _ := by ring
            · omega
          have : n % (d * 2 ^ roundStep n d) = 0 := Nat.mod_eq_zero_of_dvd ⟨2 ^ 24 - 1, by rw [Nat.mul_comm]; exact he⟩
          omega
        omega
    rw [hs] at *
    omega
  · have : roundStep n d ≤ 252 := by omega
    have : roundStep n d * 2 ^ 23 ≤ 252 * 2 ^ 23 := Nat.mul_le_mul_right _ this
    omega

/-- The magnitude of a finite packed layout. -/
theorem f32Mag_pack (neg : Bool) (m : Nat) (h : m < infMag) :
    f32Mag (f32Pack neg m) = if m / 2 ^ 23 = 0 then m else (m % 2 ^ 23 + 2 ^ 23) * 2 ^ (m / 2 ^ 23 - 1) := by
  have hm : m < 255 * 2 ^ 23 := h
  simp only [f32Mag, f32Exp_pack, f32Frac_pack]
  rw [Nat.mod_eq_of_lt (by omega : m / 2 ^ 23 < 256)]
  split
  · omega
  · rfl

/-- What a rounding that does not overflow delivers: the rounded quotient, in units of its step. -/
theorem f32Mag_round (neg : Bool) (n d : Nat) (h : roundMag n d < infMag) :
    f32Mag (f32Round neg n d) = roundNearestEven n (d * 2 ^ roundStep n d) * 2 ^ roundStep n d := by
  have he : roundMag n d = roundStep n d * 2 ^ 23 + roundNearestEven n (d * 2 ^ roundStep n d) := by
    unfold roundMag at h ⊢; omega
  have hq := quotient_lt n d
  have hr : roundNearestEven n (d * 2 ^ roundStep n d) ≤ 2 ^ 24 := by
    rcases roundNearestEven_cases n (d * 2 ^ roundStep n d) with h | ⟨h, _⟩ <;> omega
  have hl : 0 < roundStep n d → 2 ^ 23 ≤ roundNearestEven n (d * 2 ^ roundStep n d) := by
    intro hs
    have := le_quotient n d hs
    rcases roundNearestEven_cases n (d * 2 ^ roundStep n d) with h | ⟨h, _⟩ <;> omega
  rw [f32Round, f32Mag_pack _ _ h, he]
  generalize roundNearestEven n (d * 2 ^ roundStep n d) = m at *
  generalize roundStep n d = k at *
  rcases Nat.lt_or_ge m (2 ^ 23) with h1 | h1
  · have hk : k = 0 := by by_contra hk; have := hl (by omega); omega
    subst hk
    rw [if_pos (by omega)]; simp
  · rw [if_neg (by omega)]
    rcases Nat.lt_or_ge m (2 ^ 24) with h2 | h2
    · rw [show (k * 2 ^ 23 + m) % 2 ^ 23 + 2 ^ 23 = m by omega, show (k * 2 ^ 23 + m) / 2 ^ 23 - 1 = k by omega]
    · have hm : m = 2 ^ 24 := by omega
      subst hm
      rw [show (k * 2 ^ 23 + 2 ^ 24) % 2 ^ 23 + 2 ^ 23 = 2 ^ 23 by omega,
        show (k * 2 ^ 23 + 2 ^ 24) / 2 ^ 23 - 1 = k + 1 by omega, pow_succ]
      ring

/-- A value rounded to its own magnitude keeps it. -/
theorem f32Mag_round_mag (neg : Bool) {x : F32} (h : f32Fin x = true) :
    f32Mag (f32Round neg (f32Mag x) 1) = f32Mag x := by
  have hf := f32Frac_lt x
  rw [f32Mag_round _ _ _ (roundMag_lt _ _ (by norm_num) (by simpa using f32Mag_le h))]
  unfold roundStep
  rw [Nat.div_one, Nat.one_mul]
  obtain ⟨m, hm⟩ : ∃ m, f32Mag x = m * 2 ^ ((f32Mag x).log2 - 23) := by
    by_cases he : f32Exp x = 0
    · have : f32Mag x = f32Frac x := by simp [f32Mag, he]
      have h2 : (f32Mag x).log2 - 23 = 0 := by
        rw [this]
        have := (Nat.log2_le_self (f32Frac x))
        by_cases h0 : f32Frac x = 0
        · simp [h0]
        · have : (f32Frac x).log2 < 23 := (Nat.log2_lt h0).2 hf
          omega
      exact ⟨f32Mag x, by rw [h2]; simp⟩
    · have h1 : f32Mag x = (f32Frac x + 2 ^ 23) * 2 ^ (f32Exp x - 1) := by simp [f32Mag, he]
      have h2 : (f32Mag x).log2 = 23 + (f32Exp x - 1) := by
        rw [Nat.log2_eq_iff (by rw [h1]; positivity), h1]
        constructor
        · rw [pow_add]; gcongr; omega
        · rw [show 23 + (f32Exp x - 1) + 1 = 24 + (f32Exp x - 1) by omega, pow_add]
          exact Nat.mul_lt_mul_of_pos_right (by omega) (by positivity)
      refine ⟨f32Frac x + 2 ^ 23, ?_⟩
      rw [h2, h1]; congr 2; omega
  generalize (f32Mag x).log2 - 23 = k at *
  rw [hm, roundNearestEven_exact _ _ (by positivity)]

/-- The rounding of a value's own magnitude is finite. -/
theorem f32Fin_round_mag (neg : Bool) {x : F32} (h : f32Fin x = true) : f32Fin (f32Round neg (f32Mag x) 1) = true :=
  f32Fin_pack _ _ (roundMag_lt _ _ (by norm_num) (by simpa using f32Mag_le h))

/-- A product by a value of magnitude at most 1 is finite. -/
theorem f32Fin_mul {a b : F32} (ha : f32Fin a = true) (hb : f32Fin b = true) (h1 : f32Mag b ≤ f32Unit) :
    f32Fin (f32Mul a b) = true := by
  simp only [f32Mul, f32IsNaN_of_fin ha, f32IsNaN_of_fin hb, f32IsInf_of_fin ha, f32IsInf_of_fin hb, Bool.or_self,
    Bool.false_eq_true, if_false]
  exact f32Fin_pack _ _ (roundMag_lt _ _ (by norm_num [f32Unit]) (Nat.mul_le_mul (f32Mag_le ha) h1))

/-- A quotient by a value of magnitude at least 1 is finite. -/
theorem f32Fin_div {a b : F32} (ha : f32Fin a = true) (hb : f32Fin b = true) (h1 : f32Unit ≤ f32Mag b) :
    f32Fin (f32Div a b) = true := by
  have h0 : 0 < f32Mag b := lt_of_lt_of_le (by norm_num [f32Unit]) h1
  simp only [f32Div, f32IsNaN_of_fin ha, f32IsNaN_of_fin hb, f32IsInf_of_fin ha, f32IsInf_of_fin hb, Bool.or_self,
    Bool.false_eq_true, if_false, h0.ne']
  exact f32Fin_pack _ _ (roundMag_lt _ _ h0 (Nat.mul_le_mul (f32Mag_le ha) h1))

/-- A rounding with a plus sign is not negative. -/
theorem f32ToInt_round_nonneg (n d : Nat) : 0 ≤ f32ToInt (f32Round false n d) := by
  simp [f32ToInt]

/-- A rounding with a minus sign is not positive. -/
theorem f32ToInt_round_nonpos (n d : Nat) : f32ToInt (f32Round true n d) ≤ 0 := by
  simp [f32ToInt]

/-- `0 - x` is finite, and its value is `-x`. -/
theorem f32Sub_zero_left {x : F32} (h : f32Fin x = true) :
    f32Fin (f32Sub F32.zero x) = true ∧ f32ToInt (f32Sub F32.zero x) = -f32ToInt x := by
  have hz : f32ToInt F32.zero = 0 := by decide
  have h1 : f32IsNaN F32.zero = false := by decide
  have h2 : f32IsInf F32.zero = false := by decide
  simp only [f32Sub, f32AddAs, h1, h2, f32IsNaN_neg, f32IsInf_neg, f32IsNaN_of_fin h, f32IsInf_of_fin h, Bool.or_self,
    Bool.false_eq_true, if_false, f32AddFin, hz, f32ToInt_neg, zero_add, neg_eq_zero]
  split
  · rename_i h0
    rw [h0]
    refine ⟨?_, ?_⟩
    · generalize (f32Sign F32.zero && f32Sign (f32Neg x)) = b; cases b <;> decide
    · generalize (f32Sign F32.zero && f32Sign (f32Neg x)) = b; cases b <;> decide
  · rename_i h0
    have hm : (-f32ToInt x).natAbs = f32Mag x := by
      unfold f32ToInt; split <;> simp
    rw [hm]
    refine ⟨f32Fin_round_mag _ h, ?_⟩
    have hr : ∀ b : Bool, f32ToInt (f32Round b (f32Mag x) 1) = if b then -(f32Mag x : Int) else (f32Mag x : Int) := by
      intro b
      rw [f32ToInt, f32Sign_round, f32Mag_round_mag b h]
    rw [hr]
    have hx : f32ToInt x = if f32Sign x then -(f32Mag x : Int) else (f32Mag x : Int) := rfl
    rw [hx] at h0 ⊢
    generalize f32Mag x = m at h0 ⊢
    revert h0
    cases f32Sign x <;> intro h0
    · have h0 : (m : Int) ≠ 0 := h0
      rw [if_neg (by decide : ¬ (false = true)), if_pos (by rw [decide_eq_true_eq]; omega)]
    · rw [if_pos rfl, if_neg (by rw [decide_eq_true_eq]; omega), neg_neg]

/-- A rounded quotient is above an odd `m` exactly when the quotient is at least `m + 1/2`. -/
theorem succ_le_roundNearestEven {n u : Nat} (hu : 0 < u) (m : Nat) (hm : m % 2 = 1) : m + 1 ≤ roundNearestEven n u ↔ (2 * m + 1) * u ≤ 2 * n := by
  have hd := Nat.div_add_mod n u
  have hl := Nat.mod_lt n hu
  unfold roundNearestEven
  generalize n / u = q at *
  generalize n % u = r at *
  subst hd
  split
  · rename_i h
    constructor
    · intro h1
      have : (2 * m + 2) * u ≤ 2 * (u * q) := by nlinarith
      nlinarith
    · intro h1
      by_contra hc
      have hqm : q ≤ m := by omega
      rcases Nat.lt_or_ge q m with h2 | h2
      · have : (q + 1) * u ≤ m * u := Nat.mul_le_mul_right _ h2
        nlinarith
      · have : q = m := by omega
        subst this
        rcases h with h | ⟨_, h⟩
        · nlinarith
        · omega
  · rename_i h
    have h : ¬ (2 * r < u) ∧ ¬ (2 * r = u ∧ q % 2 = 0) := by tauto
    constructor
    · intro h1
      have : m ≤ q := by omega
      rcases Nat.lt_or_ge m q with h2 | h2
      · have : (m + 1) * u ≤ q * u := Nat.mul_le_mul_right _ h2
        nlinarith
      · have : q = m := by omega
        subst this
        nlinarith
    · intro h1
      by_contra hc
      have : q + 1 ≤ m := by omega
      have : (q + 1) * u ≤ m * u := Nat.mul_le_mul_right _ this
      nlinarith

/-- A rounding overflows exactly from half a step above the largest finite magnitude on (R9). -/
theorem roundMag_eq_infMag_iff (n d : Nat) (hd : 0 < d) : roundMag n d = infMag ↔ (2 ^ 25 - 1) * 2 ^ 252 * d ≤ n := by
  have hq := quotient_lt n d
  have hr : roundNearestEven n (d * 2 ^ roundStep n d) ≤ 2 ^ 24 := by
    rcases roundNearestEven_cases n (d * 2 ^ roundStep n d) with h | ⟨h, _⟩ <;> omega
  have hm : roundMag n d = infMag ↔ 255 * 2 ^ 23 ≤ roundStep n d * 2 ^ 23 + roundNearestEven n (d * 2 ^ roundStep n d) := by
    unfold roundMag infMag; omega
  rw [hm]
  rcases lt_trichotomy (roundStep n d) 253 with hs | hs | hs
  · constructor
    · intro h; omega
    · intro h
      exfalso
      have h1 : n < 2 ^ 24 * (d * 2 ^ roundStep n d) := by
        have := (Nat.div_lt_iff_lt_mul (by positivity)).1 hq
        linarith
      have h2 : 2 ^ roundStep n d ≤ 2 ^ 252 := Nat.pow_le_pow_right (by norm_num) (by omega)
      have h3 : 2 ^ 24 * (d * 2 ^ roundStep n d) ≤ 2 ^ 24 * (d * 2 ^ 252) := by gcongr
      have hp : 0 < d * 2 ^ 252 := by positivity
      have e : (2 ^ 25 - 1) * 2 ^ 252 * d = (2 ^ 25 - 1) * (d * 2 ^ 252) := by ring
      rw [e] at h
      clear h2 hm
      have hx : n < 2 ^ 24 * (d * 2 ^ 252) := lt_of_lt_of_le h1 h3
      clear h1 h3 e
      generalize d * 2 ^ 252 = p at *
      omega
  · have := succ_le_roundNearestEven (n := n) (u := d * 2 ^ roundStep n d) (by positivity) (2 ^ 24 - 1) (by norm_num)
    rw [hs] at *
    have e : (2 * (2 ^ 24 - 1) + 1) * (d * 2 ^ 253) = 2 * ((2 ^ 25 - 1) * 2 ^ 252 * d) := by
      rw [show 2 ^ 253 = 2 * 2 ^ 252 from pow_succ' 2 252]; ring
    rw [e] at this
    constructor
    · intro h; have := this.1 (by omega); omega
    · intro h; have := this.2 (by omega); omega
  · constructor
    · intro h
      have h1 := le_quotient n d (by omega)
      rw [Nat.le_div_iff_mul_le (by positivity)] at h1
      have h2 : 2 ^ 254 ≤ 2 ^ roundStep n d := Nat.pow_le_pow_right (by norm_num) (by omega)
      have h3 : 2 ^ 23 * (d * 2 ^ 254) ≤ 2 ^ 23 * (d * 2 ^ roundStep n d) := by gcongr
      rw [show 2 ^ 254 = 4 * 2 ^ 252 by rw [show (254:Nat) = 2 + 252 from rfl, pow_add]; rfl] at h3
      have hp : 0 < d * 2 ^ 252 := by positivity
      have e : (2 ^ 25 - 1) * 2 ^ 252 * d = (2 ^ 25 - 1) * (d * 2 ^ 252) := by ring
      have e2 : 2 ^ 23 * (d * (4 * 2 ^ 252)) = 2 ^ 25 * (d * 2 ^ 252) := by ring
      rw [e]; rw [e2] at h3
      have hx := le_trans h3 h1
      refine le_trans ?_ hx
      exact Nat.mul_le_mul_right _ (by norm_num)
    · intro h
      have h1 := le_quotient n d (by omega)
      rcases roundNearestEven_cases n (d * 2 ^ roundStep n d) with h | ⟨h, _⟩ <;> omega

/-- A rounding is finite exactly below that bound. -/
theorem f32Fin_round_iff (neg : Bool) (n d : Nat) (hd : 0 < d) : f32Fin (f32Round neg n d) = true ↔ n < (2 ^ 25 - 1) * 2 ^ 252 * d := by
  have := roundMag_eq_infMag_iff n d hd
  have hle := roundMag_le n d
  constructor
  · intro h
    by_contra hc
    have := this.2 (by omega)
    rw [f32Round, this] at h
    cases neg <;> exact absurd h (by decide)
  · intro h
    exact f32Fin_pack _ _ (by omega)

/-- A rounding that overflows is the infinity of its sign. -/
theorem f32Round_of_overflow (neg : Bool) (n d : Nat) (h : f32Fin (f32Round neg n d) = false) : f32Round neg n d = if neg then ⟨0xFF800000#32⟩ else ⟨0x7F800000#32⟩ := by
  have hle := roundMag_le n d
  have : roundMag n d = infMag := by
    by_contra hc
    have := f32Fin_pack neg (roundMag n d) (by omega)
    rw [f32Round] at h; rw [h] at this; cases this
  rw [f32Round, this]; cases neg <;> decide

/-- A finite magnitude is a significand of at most 24 bits, shifted; it has exactly 24 bits when it is shifted. -/
theorem f32Mag_form (x : F32) : ∃ m k : Nat, f32Mag x = m * 2 ^ k ∧ m < 2 ^ 24 ∧ (0 < k → 2 ^ 23 ≤ m) := by
  have hf := f32Frac_lt x
  by_cases he : f32Exp x = 0
  · exact ⟨f32Frac x, 0, by simp [f32Mag, he], by omega, by omega⟩
  · exact ⟨f32Frac x + 2 ^ 23, f32Exp x - 1, by simp [f32Mag, he], by omega, by omega⟩

end Sys2Proof.Machine
end

