-- ==== Sys2Proof/Laws/State.lean ====
section
/-! SUPPORT. One simp lemma per field for each shared update of the registers: what the update leaves as it
was. Later proofs cite these and unfold no update. -/

namespace Sys2Proof.Machine

section
variable {R : Type} (N : Numerics R)

@[simp] theorem setFlag_opa (f : Flag) (r : Regs R) : (setFlag f r).opa = r.opa := rfl
@[simp] theorem setFlag_opb (f : Flag) (r : Regs R) : (setFlag f r).opb = r.opb := rfl
@[simp] theorem setFlag_res (f : Flag) (r : Regs R) : (setFlag f r).res = r.res := rfl
@[simp] theorem setFlag_resE (f : Flag) (r : Regs R) : (setFlag f r).resE = r.resE := rfl
@[simp] theorem setFlag_errcode (f : Flag) (r : Regs R) : (setFlag f r).errcode = r.errcode := rfl
@[simp] theorem setFlag_errcmd (f : Flag) (r : Regs R) : (setFlag f r).errcmd = r.errcmd := rfl
@[simp] theorem setFlag_crStage (f : Flag) (r : Regs R) : (setFlag f r).crStage = r.crStage := rfl
@[simp] theorem setFlag_pllStage (f : Flag) (r : Regs R) : (setFlag f r).pllStage = r.pllStage := rfl
@[simp] theorem setFlag_constM (f : Flag) (r : Regs R) : (setFlag f r).constM = r.constM := rfl
@[simp] theorem setFlag_constPt (f : Flag) (r : Regs R) : (setFlag f r).constPt = r.constPt := rfl
@[simp] theorem setFlag_cr (f : Flag) (r : Regs R) : (setFlag f r).cr = r.cr := rfl
@[simp] theorem setFlag_pll (f : Flag) (r : Regs R) : (setFlag f r).pll = r.pll := rfl

@[simp] theorem setFlag_status (f : Flag) (r : Regs R) : (setFlag f r).status = r.status ||| flagMask f := rfl

@[simp] theorem setFlagIf_opa (c : Bool) (f : Flag) (r : Regs R) : (setFlagIf c f r).opa = r.opa := by cases c <;> rfl
@[simp] theorem setFlagIf_opb (c : Bool) (f : Flag) (r : Regs R) : (setFlagIf c f r).opb = r.opb := by cases c <;> rfl
@[simp] theorem setFlagIf_res (c : Bool) (f : Flag) (r : Regs R) : (setFlagIf c f r).res = r.res := by cases c <;> rfl
@[simp] theorem setFlagIf_resE (c : Bool) (f : Flag) (r : Regs R) : (setFlagIf c f r).resE = r.resE := by cases c <;> rfl
@[simp] theorem setFlagIf_errcode (c : Bool) (f : Flag) (r : Regs R) : (setFlagIf c f r).errcode = r.errcode := by cases c <;> rfl
@[simp] theorem setFlagIf_errcmd (c : Bool) (f : Flag) (r : Regs R) : (setFlagIf c f r).errcmd = r.errcmd := by cases c <;> rfl
@[simp] theorem setFlagIf_crStage (c : Bool) (f : Flag) (r : Regs R) : (setFlagIf c f r).crStage = r.crStage := by cases c <;> rfl
@[simp] theorem setFlagIf_pllStage (c : Bool) (f : Flag) (r : Regs R) : (setFlagIf c f r).pllStage = r.pllStage := by cases c <;> rfl
@[simp] theorem setFlagIf_constM (c : Bool) (f : Flag) (r : Regs R) : (setFlagIf c f r).constM = r.constM := by cases c <;> rfl
@[simp] theorem setFlagIf_constPt (c : Bool) (f : Flag) (r : Regs R) : (setFlagIf c f r).constPt = r.constPt := by cases c <;> rfl
@[simp] theorem setFlagIf_cr (c : Bool) (f : Flag) (r : Regs R) : (setFlagIf c f r).cr = r.cr := by cases c <;> rfl
@[simp] theorem setFlagIf_pll (c : Bool) (f : Flag) (r : Regs R) : (setFlagIf c f r).pll = r.pll := by cases c <;> rfl

@[simp] theorem setFlagIf_status (c : Bool) (f : Flag) (r : Regs R) :
    (setFlagIf c f r).status = if c then r.status ||| flagMask f else r.status := by cases c <;> rfl

@[simp] theorem clearFlags_opa (v : Word) (r : Regs R) : (clearFlags v r).opa = r.opa := rfl
@[simp] theorem clearFlags_opb (v : Word) (r : Regs R) : (clearFlags v r).opb = r.opb := rfl
@[simp] theorem clearFlags_res (v : Word) (r : Regs R) : (clearFlags v r).res = r.res := rfl
@[simp] theorem clearFlags_resE (v : Word) (r : Regs R) : (clearFlags v r).resE = r.resE := rfl
@[simp] theorem clearFlags_errcode (v : Word) (r : Regs R) : (clearFlags v r).errcode = r.errcode := rfl
@[simp] theorem clearFlags_errcmd (v : Word) (r : Regs R) : (clearFlags v r).errcmd = r.errcmd := rfl
@[simp] theorem clearFlags_crStage (v : Word) (r : Regs R) : (clearFlags v r).crStage = r.crStage := rfl
@[simp] theorem clearFlags_pllStage (v : Word) (r : Regs R) : (clearFlags v r).pllStage = r.pllStage := rfl
@[simp] theorem clearFlags_constM (v : Word) (r : Regs R) : (clearFlags v r).constM = r.constM := rfl
@[simp] theorem clearFlags_constPt (v : Word) (r : Regs R) : (clearFlags v r).constPt = r.constPt := rfl
@[simp] theorem clearFlags_cr (v : Word) (r : Regs R) : (clearFlags v r).cr = r.cr := rfl
@[simp] theorem clearFlags_pll (v : Word) (r : Regs R) : (clearFlags v r).pll = r.pll := rfl

@[simp] theorem clearFlags_status (v : Word) (r : Regs R) :
    (clearFlags v r).status = r.status &&& ~~~(v &&& statusMask) := rfl

@[simp] theorem noteNonfiniteC_opa (z : Cx R) (r : Regs R) : (noteNonfiniteC N z r).opa = r.opa := by simp [noteNonfiniteC]
@[simp] theorem noteNonfiniteC_opb (z : Cx R) (r : Regs R) : (noteNonfiniteC N z r).opb = r.opb := by simp [noteNonfiniteC]
@[simp] theorem noteNonfiniteC_res (z : Cx R) (r : Regs R) : (noteNonfiniteC N z r).res = r.res := by simp [noteNonfiniteC]
@[simp] theorem noteNonfiniteC_resE (z : Cx R) (r : Regs R) : (noteNonfiniteC N z r).resE = r.resE := by simp [noteNonfiniteC]
@[simp] theorem noteNonfiniteC_errcode (z : Cx R) (r : Regs R) : (noteNonfiniteC N z r).errcode = r.errcode := by simp [noteNonfiniteC]
@[simp] theorem noteNonfiniteC_errcmd (z : Cx R) (r : Regs R) : (noteNonfiniteC N z r).errcmd = r.errcmd := by simp [noteNonfiniteC]
@[simp] theorem noteNonfiniteC_crStage (z : Cx R) (r : Regs R) : (noteNonfiniteC N z r).crStage = r.crStage := by simp [noteNonfiniteC]
@[simp] theorem noteNonfiniteC_pllStage (z : Cx R) (r : Regs R) : (noteNonfiniteC N z r).pllStage = r.pllStage := by simp [noteNonfiniteC]
@[simp] theorem noteNonfiniteC_constM (z : Cx R) (r : Regs R) : (noteNonfiniteC N z r).constM = r.constM := by simp [noteNonfiniteC]
@[simp] theorem noteNonfiniteC_constPt (z : Cx R) (r : Regs R) : (noteNonfiniteC N z r).constPt = r.constPt := by simp [noteNonfiniteC]
@[simp] theorem noteNonfiniteC_cr (z : Cx R) (r : Regs R) : (noteNonfiniteC N z r).cr = r.cr := by simp [noteNonfiniteC]
@[simp] theorem noteNonfiniteC_pll (z : Cx R) (r : Regs R) : (noteNonfiniteC N z r).pll = r.pll := by simp [noteNonfiniteC]

@[simp] theorem noteNonfiniteC_status (z : Cx R) (r : Regs R) :
    (noteNonfiniteC N z r).status = if finC N z then r.status else r.status ||| flagMask .nonfinite := by
  cases h : finC N z <;> simp [noteNonfiniteC, h]

@[simp] theorem noteNonfiniteR_opa (e : R) (r : Regs R) : (noteNonfiniteR N e r).opa = r.opa := by simp [noteNonfiniteR]
@[simp] theorem noteNonfiniteR_opb (e : R) (r : Regs R) : (noteNonfiniteR N e r).opb = r.opb := by simp [noteNonfiniteR]
@[simp] theorem noteNonfiniteR_res (e : R) (r : Regs R) : (noteNonfiniteR N e r).res = r.res := by simp [noteNonfiniteR]
@[simp] theorem noteNonfiniteR_resE (e : R) (r : Regs R) : (noteNonfiniteR N e r).resE = r.resE := by simp [noteNonfiniteR]
@[simp] theorem noteNonfiniteR_errcode (e : R) (r : Regs R) : (noteNonfiniteR N e r).errcode = r.errcode := by simp [noteNonfiniteR]
@[simp] theorem noteNonfiniteR_errcmd (e : R) (r : Regs R) : (noteNonfiniteR N e r).errcmd = r.errcmd := by simp [noteNonfiniteR]
@[simp] theorem noteNonfiniteR_crStage (e : R) (r : Regs R) : (noteNonfiniteR N e r).crStage = r.crStage := by simp [noteNonfiniteR]
@[simp] theorem noteNonfiniteR_pllStage (e : R) (r : Regs R) : (noteNonfiniteR N e r).pllStage = r.pllStage := by simp [noteNonfiniteR]
@[simp] theorem noteNonfiniteR_constM (e : R) (r : Regs R) : (noteNonfiniteR N e r).constM = r.constM := by simp [noteNonfiniteR]
@[simp] theorem noteNonfiniteR_constPt (e : R) (r : Regs R) : (noteNonfiniteR N e r).constPt = r.constPt := by simp [noteNonfiniteR]
@[simp] theorem noteNonfiniteR_cr (e : R) (r : Regs R) : (noteNonfiniteR N e r).cr = r.cr := by simp [noteNonfiniteR]
@[simp] theorem noteNonfiniteR_pll (e : R) (r : Regs R) : (noteNonfiniteR N e r).pll = r.pll := by simp [noteNonfiniteR]

@[simp] theorem noteNonfiniteR_status (e : R) (r : Regs R) :
    (noteNonfiniteR N e r).status = if N.fin e then r.status else r.status ||| flagMask .nonfinite := by
  cases h : N.fin e <;> simp [noteNonfiniteR, h]

@[simp] theorem raiseCmdError_opa (c : ErrCode) (w : Word) (r : Regs R) : (raiseCmdError c w r).opa = r.opa := rfl
@[simp] theorem raiseCmdError_opb (c : ErrCode) (w : Word) (r : Regs R) : (raiseCmdError c w r).opb = r.opb := rfl
@[simp] theorem raiseCmdError_res (c : ErrCode) (w : Word) (r : Regs R) : (raiseCmdError c w r).res = r.res := rfl
@[simp] theorem raiseCmdError_resE (c : ErrCode) (w : Word) (r : Regs R) : (raiseCmdError c w r).resE = r.resE := rfl
@[simp] theorem raiseCmdError_crStage (c : ErrCode) (w : Word) (r : Regs R) : (raiseCmdError c w r).crStage = r.crStage := rfl
@[simp] theorem raiseCmdError_pllStage (c : ErrCode) (w : Word) (r : Regs R) : (raiseCmdError c w r).pllStage = r.pllStage := rfl
@[simp] theorem raiseCmdError_constM (c : ErrCode) (w : Word) (r : Regs R) : (raiseCmdError c w r).constM = r.constM := rfl
@[simp] theorem raiseCmdError_constPt (c : ErrCode) (w : Word) (r : Regs R) : (raiseCmdError c w r).constPt = r.constPt := rfl
@[simp] theorem raiseCmdError_cr (c : ErrCode) (w : Word) (r : Regs R) : (raiseCmdError c w r).cr = r.cr := rfl
@[simp] theorem raiseCmdError_pll (c : ErrCode) (w : Word) (r : Regs R) : (raiseCmdError c w r).pll = r.pll := rfl

@[simp] theorem raiseCmdError_status (c : ErrCode) (w : Word) (r : Regs R) :
    (raiseCmdError c w r).status = r.status ||| flagMask .cmdErr := rfl
@[simp] theorem raiseCmdError_errcode (c : ErrCode) (w : Word) (r : Regs R) :
    (raiseCmdError c w r).errcode = errCodeWord c := rfl
@[simp] theorem raiseCmdError_errcmd (c : ErrCode) (w : Word) (r : Regs R) :
    (raiseCmdError c w r).errcmd = w := rfl

@[simp] theorem pushW_live (z : Cx R) (u : CrUnit R) : (pushW z u).live = u.live := rfl
@[simp] theorem pushW_derived (z : Cx R) (u : CrUnit R) : (pushW z u).derived = u.derived := rfl
@[simp] theorem pushW_cm (z : Cx R) (u : CrUnit R) : (pushW z u).cm = u.cm := rfl
@[simp] theorem pushW_cpt (z : Cx R) (u : CrUnit R) : (pushW z u).cpt = u.cpt := rfl
@[simp] theorem pushW_tab (z : Cx R) (u : CrUnit R) : (pushW z u).tab = u.tab := rfl
@[simp] theorem pushW_coef (z : Cx R) (u : CrUnit R) : (pushW z u).coef = u.coef := rfl

@[simp] theorem pushS_live (z : Cx R) (u : CrUnit R) : (pushS z u).live = u.live := rfl
@[simp] theorem pushS_derived (z : Cx R) (u : CrUnit R) : (pushS z u).derived = u.derived := rfl
@[simp] theorem pushS_cm (z : Cx R) (u : CrUnit R) : (pushS z u).cm = u.cm := rfl
@[simp] theorem pushS_cpt (z : Cx R) (u : CrUnit R) : (pushS z u).cpt = u.cpt := rfl
@[simp] theorem pushS_tab (z : Cx R) (u : CrUnit R) : (pushS z u).tab = u.tab := rfl
@[simp] theorem pushS_coef (z : Cx R) (u : CrUnit R) : (pushS z u).coef = u.coef := rfl

@[simp] theorem crUnitReset_live (u : CrUnit R) : (crUnitReset N u).live = u.live := rfl
@[simp] theorem crUnitReset_derived (u : CrUnit R) : (crUnitReset N u).derived = u.derived := rfl
@[simp] theorem crUnitReset_cm (u : CrUnit R) : (crUnitReset N u).cm = u.cm := rfl
@[simp] theorem crUnitReset_cpt (u : CrUnit R) : (crUnitReset N u).cpt = u.cpt := rfl
@[simp] theorem crUnitReset_tab (u : CrUnit R) : (crUnitReset N u).tab = u.tab := rfl
@[simp] theorem crUnitReset_coef (u : CrUnit R) : (crUnitReset N u).coef = u.coef := rfl

@[simp] theorem crUnitReset_loop (u : CrUnit R) :
    (crUnitReset N u).loop = CrLoop.zeroed (zeroOf N) (initialAcc N u.live) := rfl

@[simp] theorem pllUnitReset_live (u : PllUnit R) : (pllUnitReset N u).live = u.live := rfl
@[simp] theorem pllUnitReset_cfgOk (u : PllUnit R) : (pllUnitReset N u).cfgOk = u.cfgOk := rfl
@[simp] theorem pllUnitReset_gamma (u : PllUnit R) : (pllUnitReset N u).gamma = u.gamma := rfl
@[simp] theorem pllUnitReset_rho (u : PllUnit R) : (pllUnitReset N u).rho = u.rho := rfl
@[simp] theorem pllUnitReset_cm (u : PllUnit R) : (pllUnitReset N u).cm = u.cm := rfl
@[simp] theorem pllUnitReset_cpt (u : PllUnit R) : (pllUnitReset N u).cpt = u.cpt := rfl

@[simp] theorem pllUnitReset_loop (u : PllUnit R) :
    (pllUnitReset N u).loop = PllLoop.zeroed (zeroOf N) := rfl

@[simp] theorem lfUpdate_live (u : PllUnit R) (e : R) : (lfUpdate N u e).live = u.live := rfl
@[simp] theorem lfUpdate_cfgOk (u : PllUnit R) (e : R) : (lfUpdate N u e).cfgOk = u.cfgOk := rfl
@[simp] theorem lfUpdate_gamma (u : PllUnit R) (e : R) : (lfUpdate N u e).gamma = u.gamma := rfl
@[simp] theorem lfUpdate_rho (u : PllUnit R) (e : R) : (lfUpdate N u e).rho = u.rho := rfl
@[simp] theorem lfUpdate_cm (u : PllUnit R) (e : R) : (lfUpdate N u e).cm = u.cm := rfl
@[simp] theorem lfUpdate_cpt (u : PllUnit R) (e : R) : (lfUpdate N u e).cpt = u.cpt := rfl

@[simp] theorem ncoAdvance_live (u : PllUnit R) (d : R) : (ncoAdvance N u d).live = u.live := rfl
@[simp] theorem ncoAdvance_cfgOk (u : PllUnit R) (d : R) : (ncoAdvance N u d).cfgOk = u.cfgOk := rfl
@[simp] theorem ncoAdvance_gamma (u : PllUnit R) (d : R) : (ncoAdvance N u d).gamma = u.gamma := rfl
@[simp] theorem ncoAdvance_rho (u : PllUnit R) (d : R) : (ncoAdvance N u d).rho = u.rho := rfl
@[simp] theorem ncoAdvance_cm (u : PllUnit R) (d : R) : (ncoAdvance N u d).cm = u.cm := rfl
@[simp] theorem ncoAdvance_cpt (u : PllUnit R) (d : R) : (ncoAdvance N u d).cpt = u.cpt := rfl

@[simp] theorem pllTrack_live (u : PllUnit R) (e : R) : (pllTrack N u e).live = u.live := rfl
@[simp] theorem pllTrack_cfgOk (u : PllUnit R) (e : R) : (pllTrack N u e).cfgOk = u.cfgOk := rfl
@[simp] theorem pllTrack_gamma (u : PllUnit R) (e : R) : (pllTrack N u e).gamma = u.gamma := rfl
@[simp] theorem pllTrack_rho (u : PllUnit R) (e : R) : (pllTrack N u e).rho = u.rho := rfl
@[simp] theorem pllTrack_cm (u : PllUnit R) (e : R) : (pllTrack N u e).cm = u.cm := rfl
@[simp] theorem pllTrack_cpt (u : PllUnit R) (e : R) : (pllTrack N u e).cpt = u.cpt := rfl

@[simp] theorem pllPushSample_live (u : PllUnit R) (z : Cx R) : (pllPushSample N u z).live = u.live := rfl
@[simp] theorem pllPushSample_cfgOk (u : PllUnit R) (z : Cx R) : (pllPushSample N u z).cfgOk = u.cfgOk := rfl
@[simp] theorem pllPushSample_gamma (u : PllUnit R) (z : Cx R) : (pllPushSample N u z).gamma = u.gamma := rfl
@[simp] theorem pllPushSample_rho (u : PllUnit R) (z : Cx R) : (pllPushSample N u z).rho = u.rho := rfl
@[simp] theorem pllPushSample_cm (u : PllUnit R) (z : Cx R) : (pllPushSample N u z).cm = u.cm := rfl
@[simp] theorem pllPushSample_cpt (u : PllUnit R) (z : Cx R) : (pllPushSample N u z).cpt = u.cpt := rfl

@[simp] theorem accGuard_opa (r : Regs R) : (accGuard N r).opa = r.opa := by unfold accGuard; split <;> rfl
@[simp] theorem accGuard_opb (r : Regs R) : (accGuard N r).opb = r.opb := by unfold accGuard; split <;> rfl
@[simp] theorem accGuard_res (r : Regs R) : (accGuard N r).res = r.res := by unfold accGuard; split <;> rfl
@[simp] theorem accGuard_resE (r : Regs R) : (accGuard N r).resE = r.resE := by unfold accGuard; split <;> rfl
@[simp] theorem accGuard_errcode (r : Regs R) : (accGuard N r).errcode = r.errcode := by unfold accGuard; split <;> rfl
@[simp] theorem accGuard_errcmd (r : Regs R) : (accGuard N r).errcmd = r.errcmd := by unfold accGuard; split <;> rfl
@[simp] theorem accGuard_crStage (r : Regs R) : (accGuard N r).crStage = r.crStage := by unfold accGuard; split <;> rfl
@[simp] theorem accGuard_pllStage (r : Regs R) : (accGuard N r).pllStage = r.pllStage := by unfold accGuard; split <;> rfl
@[simp] theorem accGuard_constM (r : Regs R) : (accGuard N r).constM = r.constM := by unfold accGuard; split <;> rfl
@[simp] theorem accGuard_constPt (r : Regs R) : (accGuard N r).constPt = r.constPt := by unfold accGuard; split <;> rfl
@[simp] theorem accGuard_pll (r : Regs R) : (accGuard N r).pll = r.pll := by unfold accGuard; split <;> rfl

@[simp] theorem accGuard_cr_live (r : Regs R) : (accGuard N r).cr.live = r.cr.live := by unfold accGuard; split <;> rfl
@[simp] theorem accGuard_cr_derived (r : Regs R) : (accGuard N r).cr.derived = r.cr.derived := by unfold accGuard; split <;> rfl
@[simp] theorem accGuard_cr_cm (r : Regs R) : (accGuard N r).cr.cm = r.cr.cm := by unfold accGuard; split <;> rfl
@[simp] theorem accGuard_cr_cpt (r : Regs R) : (accGuard N r).cr.cpt = r.cr.cpt := by unfold accGuard; split <;> rfl
@[simp] theorem accGuard_cr_tab (r : Regs R) : (accGuard N r).cr.tab = r.cr.tab := by unfold accGuard; split <;> rfl
@[simp] theorem accGuard_cr_coef (r : Regs R) : (accGuard N r).cr.coef = r.cr.coef := by unfold accGuard; split <;> rfl

@[simp] theorem takeSample_opa (z : Cx R) (r : Regs R) : (takeSample N z r).opa = r.opa := rfl
@[simp] theorem takeSample_opb (z : Cx R) (r : Regs R) : (takeSample N z r).opb = r.opb := rfl
@[simp] theorem takeSample_res (z : Cx R) (r : Regs R) : (takeSample N z r).res = r.res := rfl
@[simp] theorem takeSample_resE (z : Cx R) (r : Regs R) : (takeSample N z r).resE = r.resE := rfl
@[simp] theorem takeSample_errcode (z : Cx R) (r : Regs R) : (takeSample N z r).errcode = r.errcode := rfl
@[simp] theorem takeSample_errcmd (z : Cx R) (r : Regs R) : (takeSample N z r).errcmd = r.errcmd := rfl
@[simp] theorem takeSample_crStage (z : Cx R) (r : Regs R) : (takeSample N z r).crStage = r.crStage := rfl
@[simp] theorem takeSample_pllStage (z : Cx R) (r : Regs R) : (takeSample N z r).pllStage = r.pllStage := rfl
@[simp] theorem takeSample_constM (z : Cx R) (r : Regs R) : (takeSample N z r).constM = r.constM := rfl
@[simp] theorem takeSample_constPt (z : Cx R) (r : Regs R) : (takeSample N z r).constPt = r.constPt := rfl
@[simp] theorem takeSample_pll (z : Cx R) (r : Regs R) : (takeSample N z r).pll = r.pll := rfl

@[simp] theorem takeSample_cr_live (z : Cx R) (r : Regs R) : (takeSample N z r).cr.live = r.cr.live := rfl
@[simp] theorem takeSample_cr_derived (z : Cx R) (r : Regs R) : (takeSample N z r).cr.derived = r.cr.derived := rfl
@[simp] theorem takeSample_cr_cm (z : Cx R) (r : Regs R) : (takeSample N z r).cr.cm = r.cr.cm := rfl
@[simp] theorem takeSample_cr_cpt (z : Cx R) (r : Regs R) : (takeSample N z r).cr.cpt = r.cr.cpt := rfl
@[simp] theorem takeSample_cr_tab (z : Cx R) (r : Regs R) : (takeSample N z r).cr.tab = r.cr.tab := rfl
@[simp] theorem takeSample_cr_coef (z : Cx R) (r : Regs R) : (takeSample N z r).cr.coef = r.cr.coef := rfl

@[simp] theorem takeSample_status (z : Cx R) (r : Regs R) : (takeSample N z r).status = r.status := rfl

@[simp] theorem emitSample_opa (y : Cx R) (r : Regs R) : (emitSample N y r).opa = r.opa := rfl
@[simp] theorem emitSample_opb (y : Cx R) (r : Regs R) : (emitSample N y r).opb = r.opb := rfl
@[simp] theorem emitSample_res (y : Cx R) (r : Regs R) : (emitSample N y r).res = r.res := rfl
@[simp] theorem emitSample_resE (y : Cx R) (r : Regs R) : (emitSample N y r).resE = r.resE := rfl
@[simp] theorem emitSample_errcode (y : Cx R) (r : Regs R) : (emitSample N y r).errcode = r.errcode := rfl
@[simp] theorem emitSample_errcmd (y : Cx R) (r : Regs R) : (emitSample N y r).errcmd = r.errcmd := rfl
@[simp] theorem emitSample_crStage (y : Cx R) (r : Regs R) : (emitSample N y r).crStage = r.crStage := rfl
@[simp] theorem emitSample_pllStage (y : Cx R) (r : Regs R) : (emitSample N y r).pllStage = r.pllStage := rfl
@[simp] theorem emitSample_constM (y : Cx R) (r : Regs R) : (emitSample N y r).constM = r.constM := rfl
@[simp] theorem emitSample_constPt (y : Cx R) (r : Regs R) : (emitSample N y r).constPt = r.constPt := rfl
@[simp] theorem emitSample_pll (y : Cx R) (r : Regs R) : (emitSample N y r).pll = r.pll := rfl

@[simp] theorem emitSample_cr_live (y : Cx R) (r : Regs R) : (emitSample N y r).cr.live = r.cr.live := rfl
@[simp] theorem emitSample_cr_derived (y : Cx R) (r : Regs R) : (emitSample N y r).cr.derived = r.cr.derived := rfl
@[simp] theorem emitSample_cr_cm (y : Cx R) (r : Regs R) : (emitSample N y r).cr.cm = r.cr.cm := rfl
@[simp] theorem emitSample_cr_cpt (y : Cx R) (r : Regs R) : (emitSample N y r).cr.cpt = r.cr.cpt := rfl
@[simp] theorem emitSample_cr_tab (y : Cx R) (r : Regs R) : (emitSample N y r).cr.tab = r.cr.tab := rfl
@[simp] theorem emitSample_cr_coef (y : Cx R) (r : Regs R) : (emitSample N y r).cr.coef = r.cr.coef := rfl

@[simp] theorem emitSample_status (y : Cx R) (r : Regs R) : (emitSample N y r).status = r.status := rfl

@[simp] theorem applySymbol_opa (e : R) (y : Cx R) (r : Regs R) : (applySymbol N e y r).opa = r.opa := by simp [applySymbol]
@[simp] theorem applySymbol_opb (e : R) (y : Cx R) (r : Regs R) : (applySymbol N e y r).opb = r.opb := by simp [applySymbol]
@[simp] theorem applySymbol_res (e : R) (y : Cx R) (r : Regs R) : (applySymbol N e y r).res = r.res := by simp [applySymbol]
@[simp] theorem applySymbol_resE (e : R) (y : Cx R) (r : Regs R) : (applySymbol N e y r).resE = r.resE := by simp [applySymbol]
@[simp] theorem applySymbol_errcode (e : R) (y : Cx R) (r : Regs R) : (applySymbol N e y r).errcode = r.errcode := by simp [applySymbol]
@[simp] theorem applySymbol_errcmd (e : R) (y : Cx R) (r : Regs R) : (applySymbol N e y r).errcmd = r.errcmd := by simp [applySymbol]
@[simp] theorem applySymbol_crStage (e : R) (y : Cx R) (r : Regs R) : (applySymbol N e y r).crStage = r.crStage := by simp [applySymbol]
@[simp] theorem applySymbol_pllStage (e : R) (y : Cx R) (r : Regs R) : (applySymbol N e y r).pllStage = r.pllStage := by simp [applySymbol]
@[simp] theorem applySymbol_constM (e : R) (y : Cx R) (r : Regs R) : (applySymbol N e y r).constM = r.constM := by simp [applySymbol]
@[simp] theorem applySymbol_constPt (e : R) (y : Cx R) (r : Regs R) : (applySymbol N e y r).constPt = r.constPt := by simp [applySymbol]
@[simp] theorem applySymbol_pll (e : R) (y : Cx R) (r : Regs R) : (applySymbol N e y r).pll = r.pll := by simp [applySymbol]

@[simp] theorem applySymbol_cr_live (e : R) (y : Cx R) (r : Regs R) : (applySymbol N e y r).cr.live = r.cr.live := by simp [applySymbol]
@[simp] theorem applySymbol_cr_derived (e : R) (y : Cx R) (r : Regs R) : (applySymbol N e y r).cr.derived = r.cr.derived := by simp [applySymbol]
@[simp] theorem applySymbol_cr_cm (e : R) (y : Cx R) (r : Regs R) : (applySymbol N e y r).cr.cm = r.cr.cm := by simp [applySymbol]
@[simp] theorem applySymbol_cr_cpt (e : R) (y : Cx R) (r : Regs R) : (applySymbol N e y r).cr.cpt = r.cr.cpt := by simp [applySymbol]
@[simp] theorem applySymbol_cr_tab (e : R) (y : Cx R) (r : Regs R) : (applySymbol N e y r).cr.tab = r.cr.tab := by simp [applySymbol]
@[simp] theorem applySymbol_cr_coef (e : R) (y : Cx R) (r : Regs R) : (applySymbol N e y r).cr.coef = r.cr.coef := by simp [applySymbol]

@[simp] theorem emit_opa (r : Regs R) : (emit N r).opa = r.opa := by unfold emit; dsimp only; split <;> simp
@[simp] theorem emit_opb (r : Regs R) : (emit N r).opb = r.opb := by unfold emit; dsimp only; split <;> simp
@[simp] theorem emit_res (r : Regs R) : (emit N r).res = r.res := by unfold emit; dsimp only; split <;> simp
@[simp] theorem emit_resE (r : Regs R) : (emit N r).resE = r.resE := by unfold emit; dsimp only; split <;> simp
@[simp] theorem emit_errcode (r : Regs R) : (emit N r).errcode = r.errcode := by unfold emit; dsimp only; split <;> simp
@[simp] theorem emit_errcmd (r : Regs R) : (emit N r).errcmd = r.errcmd := by unfold emit; dsimp only; split <;> simp
@[simp] theorem emit_crStage (r : Regs R) : (emit N r).crStage = r.crStage := by unfold emit; dsimp only; split <;> simp
@[simp] theorem emit_pllStage (r : Regs R) : (emit N r).pllStage = r.pllStage := by unfold emit; dsimp only; split <;> simp
@[simp] theorem emit_constM (r : Regs R) : (emit N r).constM = r.constM := by unfold emit; dsimp only; split <;> simp
@[simp] theorem emit_constPt (r : Regs R) : (emit N r).constPt = r.constPt := by unfold emit; dsimp only; split <;> simp
@[simp] theorem emit_pll (r : Regs R) : (emit N r).pll = r.pll := by unfold emit; dsimp only; split <;> simp

@[simp] theorem emit_cr_live (r : Regs R) : (emit N r).cr.live = r.cr.live := by unfold emit; dsimp only; split <;> simp
@[simp] theorem emit_cr_derived (r : Regs R) : (emit N r).cr.derived = r.cr.derived := by unfold emit; dsimp only; split <;> simp
@[simp] theorem emit_cr_cm (r : Regs R) : (emit N r).cr.cm = r.cr.cm := by unfold emit; dsimp only; split <;> simp
@[simp] theorem emit_cr_cpt (r : Regs R) : (emit N r).cr.cpt = r.cr.cpt := by unfold emit; dsimp only; split <;> simp
@[simp] theorem emit_cr_tab (r : Regs R) : (emit N r).cr.tab = r.cr.tab := by unfold emit; dsimp only; split <;> simp
@[simp] theorem emit_cr_coef (r : Regs R) : (emit N r).cr.coef = r.cr.coef := by unfold emit; dsimp only; split <;> simp

@[simp] theorem awaitOrEmit_opa (r : Regs R) : (awaitOrEmit N r).opa = r.opa := by unfold awaitOrEmit; split <;> simp
@[simp] theorem awaitOrEmit_opb (r : Regs R) : (awaitOrEmit N r).opb = r.opb := by unfold awaitOrEmit; split <;> simp
@[simp] theorem awaitOrEmit_res (r : Regs R) : (awaitOrEmit N r).res = r.res := by unfold awaitOrEmit; split <;> simp
@[simp] theorem awaitOrEmit_resE (r : Regs R) : (awaitOrEmit N r).resE = r.resE := by unfold awaitOrEmit; split <;> simp
@[simp] theorem awaitOrEmit_errcode (r : Regs R) : (awaitOrEmit N r).errcode = r.errcode := by unfold awaitOrEmit; split <;> simp
@[simp] theorem awaitOrEmit_errcmd (r : Regs R) : (awaitOrEmit N r).errcmd = r.errcmd := by unfold awaitOrEmit; split <;> simp
@[simp] theorem awaitOrEmit_crStage (r : Regs R) : (awaitOrEmit N r).crStage = r.crStage := by unfold awaitOrEmit; split <;> simp
@[simp] theorem awaitOrEmit_pllStage (r : Regs R) : (awaitOrEmit N r).pllStage = r.pllStage := by unfold awaitOrEmit; split <;> simp
@[simp] theorem awaitOrEmit_constM (r : Regs R) : (awaitOrEmit N r).constM = r.constM := by unfold awaitOrEmit; split <;> simp
@[simp] theorem awaitOrEmit_constPt (r : Regs R) : (awaitOrEmit N r).constPt = r.constPt := by unfold awaitOrEmit; split <;> simp
@[simp] theorem awaitOrEmit_pll (r : Regs R) : (awaitOrEmit N r).pll = r.pll := by unfold awaitOrEmit; split <;> simp

@[simp] theorem awaitOrEmit_cr_live (r : Regs R) : (awaitOrEmit N r).cr.live = r.cr.live := by unfold awaitOrEmit; split <;> simp
@[simp] theorem awaitOrEmit_cr_derived (r : Regs R) : (awaitOrEmit N r).cr.derived = r.cr.derived := by unfold awaitOrEmit; split <;> simp
@[simp] theorem awaitOrEmit_cr_cm (r : Regs R) : (awaitOrEmit N r).cr.cm = r.cr.cm := by unfold awaitOrEmit; split <;> simp
@[simp] theorem awaitOrEmit_cr_cpt (r : Regs R) : (awaitOrEmit N r).cr.cpt = r.cr.cpt := by unfold awaitOrEmit; split <;> simp
@[simp] theorem awaitOrEmit_cr_tab (r : Regs R) : (awaitOrEmit N r).cr.tab = r.cr.tab := by unfold awaitOrEmit; split <;> simp
@[simp] theorem awaitOrEmit_cr_coef (r : Regs R) : (awaitOrEmit N r).cr.coef = r.cr.coef := by unfold awaitOrEmit; split <;> simp

end

end Sys2Proof.Machine
end

