-- ==== Sys2Proof/Laws/Commands.lean ====
section
/-! SUPPORT. What a command and a step can do, said once: a command always ends in a next state, an error
writes three registers, and a step is one of four things. -/

namespace Sys2Proof.Machine

/-- A command answers a next state in which only the core's registers may differ. -/
theorem exec_eq_command (i : Instr) (s : State) :
    exec i s = .next { s with regs := command binary32 i s.regs } := by
  cases i <;> rfl

@[simp] theorem finish_done {R : Type} (w : Word) (r : Regs R) : finish w (.done r) = { r with errcode := 0 } := rfl

@[simp] theorem finish_raise {R : Type} (w : Word) (c : ErrCode) (r : Regs R) :
    finish w (.raise c r) = raiseCmdError c w r := rfl

@[simp] theorem complete_eq (i : Instr) (e : CmdEnd F32) (s : State) :
    complete i e s = .next { s with regs := finish (encode i) e } := rfl

/-- A CR command in an unconfigured unit raises, and nothing else. -/
theorem needCr_unconfigured {R : Type} (r : Regs R) (b : CmdEnd R) (h : r.cr.derived.cfgOk = 0) :
    needCr r b = .raise .crNotConfigured r := if_pos h

/-- A CR command in a configured unit runs its rule. -/
theorem needCr_configured {R : Type} (r : Regs R) (b : CmdEnd R) (h : r.cr.derived.cfgOk ≠ 0) :
    needCr r b = b := if_neg h

/-- A PLL command in an unconfigured unit raises, and nothing else. -/
theorem needPll_unconfigured {R : Type} (r : Regs R) (b : CmdEnd R) (h : r.pll.cfgOk = 0) :
    needPll r b = .raise .pllNotConfigured r := if_pos h

/-- A PLL command in a configured unit runs its rule. -/
theorem needPll_configured {R : Type} (r : Regs R) (b : CmdEnd R) (h : r.pll.cfgOk ≠ 0) :
    needPll r b = b := if_neg h

/-- The codes of the table lie between 1 and 14 (60_exceptions.md R251). -/
theorem errCodeWord_range (c : ErrCode) : 1 ≤ (errCodeWord c).toNat ∧ (errCodeWord c).toNat ≤ 14 := by
  cases c <;> decide

/-- Different errors have different codes. -/
theorem errCodeWord_injective (c d : ErrCode) (h : errCodeWord c = errCodeWord d) : c = d := by
  cases c <;> cases d <;> first | rfl | exact absurd h (by decide)

/-- Everything a step can do: idle, serve an access, execute a command, or refuse an illegal word. -/
theorem step_cases {s t : State} (h : step s = .next t) :
    (s.pending = [] ∧ t = s) ∨
    ∃ x rest, s.pending = x :: rest ∧
      ((∃ r reply, serve s.regs x = .access r reply ∧ t = { regs := r, pending := rest, reply := reply }) ∨
       (∃ w i, serve s.regs x = .command w ∧ decode w = .ok i ∧
          t = { regs := command binary32 i s.regs, pending := rest, reply := none }) ∨
       (∃ w e, serve s.regs x = .command w ∧ decode w = .error e ∧
          t = { regs := illegalCommand w s.regs, pending := rest, reply := none })) := by
  unfold step at h
  split at h
  · exact .inl ⟨‹_›, by injection h with h; exact h.symm⟩
  · rename_i x rest hp
    refine .inr ⟨x, rest, hp, ?_⟩
    split at h
    · injection h with h
      exact .inl ⟨_, _, ‹_›, h.symm⟩
    · split at h
      · rw [exec_eq_command] at h
        injection h with h
        exact .inr (.inl ⟨_, _, ‹_›, ‹_›, h.symm⟩)
      · injection h with h
        exact .inr (.inr ⟨_, _, ‹_›, ‹_›, h.symm⟩)

end Sys2Proof.Machine
end

