-- ==== Sys2Proof/Laws/Exact.lean ====
section
/-! SUPPORT. The operations of the real-number domain by name, so that no proof unfolds the record, and what the
shared helpers, the sinc, its window and the phase index are there. -/

namespace Sys2Proof.Machine

@[simp] theorem exact_ofNat (n : Nat) : exact.ofNat n = (n : ℝ) := rfl
@[simp] theorem exact_half : exact.half = 1 / 2 := rfl
@[simp] theorem exact_quarter : exact.quarter = 1 / 4 := rfl
@[simp] theorem exact_pi : exact.pi = Real.pi := rfl
@[simp] theorem exact_twoPi : exact.twoPi = 2 * Real.pi := rfl
@[simp] theorem exact_add (a b : ℝ) : exact.add a b = a + b := rfl
@[simp] theorem exact_sub (a b : ℝ) : exact.sub a b = a - b := rfl
@[simp] theorem exact_neg (a : ℝ) : exact.neg a = -a := rfl
@[simp] theorem exact_mul (a b : ℝ) : exact.mul a b = a * b := rfl
@[simp] theorem exact_div (a b : ℝ) : exact.div a b = a / b := rfl
@[simp] theorem exact_lt (a b : ℝ) : exact.lt a b = true ↔ a < b := decide_eq_true_iff
@[simp] theorem exact_le (a b : ℝ) : exact.le a b = true ↔ a ≤ b := decide_eq_true_iff
@[simp] theorem exact_eq (a b : ℝ) : exact.eq a b = true ↔ a = b := decide_eq_true_iff
@[simp] theorem exact_floor (a : ℝ) : exact.floor a = (⌊a⌋ : ℝ) := rfl
@[simp] theorem exact_fin (a : ℝ) : exact.fin a = true := rfl
@[simp] theorem exact_isNaN (a : ℝ) : exact.isNaN a = false := rfl
@[simp] theorem exact_exp (a : ℝ) : exact.exp a = Real.exp a := rfl
@[simp] theorem exact_sin (a : ℝ) : exact.sin a = Real.sin a := rfl
@[simp] theorem exact_cos (a : ℝ) : exact.cos a = Real.cos a := rfl
@[simp] theorem exact_atan2 (y x : ℝ) : exact.atan2 y x = Complex.arg ⟨x, y⟩ := rfl
@[simp] theorem zeroOf_exact : zeroOf exact = 0 := Nat.cast_zero
@[simp] theorem oneOf_exact : oneOf exact = 1 := Nat.cast_one
@[simp] theorem zeroC_exact : zeroC exact = ⟨0, 0⟩ := by simp [zeroC]

/-- Every sample is finite in `Exact` (00_scope.md R9). -/
@[simp] theorem finC_exact (z : Cx ℝ) : finC exact z = true := rfl

/-- No sample is replaced in `Exact`. -/
@[simp] theorem sanitizeC_exact (z : Cx ℝ) : sanitizeC exact z = z := rfl

/-- No sample raises `NONFINITE` in `Exact`. -/
@[simp] theorem noteNonfiniteC_exact (z : Cx ℝ) (r : Regs ℝ) : noteNonfiniteC exact z r = r := rfl

/-- `wrap_pi` over the reals (00_scope.md R11). -/
theorem wrapPi_exact (p : ℝ) :
    wrapPi exact p = p - 2 * Real.pi * (⌊(p + Real.pi) / (2 * Real.pi)⌋ : ℝ) := rfl

/-- A clamp over the reals, between bounds in order. -/
theorem clamp_exact {v lo hi : ℝ} (h : lo ≤ hi) : clamp exact v lo hi = min (max v lo) hi := by
  simp only [clamp, minR, maxR, exact_lt]
  split <;> split
  · rw [min_eq_right]; exact le_of_lt (lt_of_lt_of_le ‹_› (le_max_right _ _))
  · rw [max_eq_right (le_of_lt ‹_›), min_eq_left h]
  · rw [min_eq_right]; exact le_of_lt (lt_of_lt_of_le ‹_› (le_max_left _ _))
  · rw [max_eq_left (not_lt.1 ‹_›), min_eq_left (not_lt.1 ‹_›)]

/-- A sum over the first `k` indices is the real sum (00_scope.md R17). -/
theorem sumTo_exact (k : Nat) (a : Nat → ℝ) : sumTo exact k a = ∑ j ∈ Finset.range k, a j := by
  unfold sumTo
  induction k with
  | zero => simp
  | succ k ih => rw [List.range_succ, List.foldl_append, ih, Finset.sum_range_succ]; rfl

/-- `sinc_u(0) = 1` (40_interpolator.md R106). -/
@[simp] theorem sincU_exact_zero : sincU exact 0 = 1 := by simp [sincU]

/-- `sinc_u` is 0 at every other integer (40_interpolator.md R106). -/
theorem sincU_exact_int {z : ℤ} (h : z ≠ 0) : sincU exact (z : ℝ) = 0 := by
  have hz : (z : ℝ) ≠ 0 := by exact_mod_cast h
  simp only [sincU, zeroOf_exact, exact_eq, if_neg hz]
  simp [mul_comm Real.pi, Real.sin_int_mul_pi]

/-- The Hann window is 1 at its centre (40_interpolator.md R106). -/
theorem hann_exact_zero {l : ℝ} (h : 0 < l) : hann exact l 0 = 1 := by
  simp [hann, h]
  norm_num

/-- A natural number is found as itself. -/
theorem toNat_exact (n : Nat) : exact.toNat? (n : ℝ) = some n := by
  show (if 0 ≤ (n : ℝ) ∧ (⌊(n : ℝ)⌋ : ℝ) = n then some ⌊(n : ℝ)⌋.toNat else none) = _
  simp

/-- The phase row that `tau` selects (40_interpolator.md R107). -/
theorem phaseIndex_exact {nph n : Nat} {tau : ℝ} (hn : n ≤ nph) (h : ⌊tau * nph + 1 / 2⌋ = (n : ℤ)) :
    phaseIndex exact nph tau = n := by
  have hf : exact.floor (exact.add (exact.mul tau (exact.ofNat nph)) exact.half) = (n : ℝ) := by
    simp only [exact_floor, exact_add, exact_mul, exact_ofNat, exact_half]
    rw [h, Int.cast_natCast]
  simp only [phaseIndex, hf]
  rw [if_neg (by rw [exact_ofNat, exact_lt, not_lt]; exact_mod_cast hn), toNat_exact]

end Sys2Proof.Machine
end

