-- ==== Sys2Proof/Laws/Operands.lean ====
section
/-! SUPPORT. Register arrays and circular buffers: reading after writing, and indices in range. -/

namespace Sys2Proof.Machine

/-- Reading back what was just written, inside the array. -/
theorem vget_vput_same {α : Type} {n : Nat} (d : α) (v : Vector α n) (i : Nat) (a : α) (h : i < n) :
    vget d (vput v i a) i = a := by
  simp [vget, vput, Vector.getD, h]

/-- A write leaves every other element alone. -/
theorem vget_vput_ne {α : Type} {n : Nat} (d : α) (v : Vector α n) (i j : Nat) (a : α) (h : i ≠ j) :
    vget d (vput v i a) j = vget d v j := by
  by_cases hj : j < n
  · simp [vget, vput, Vector.getD, hj, h]
  · simp [vget, Vector.getD, hj]

/-- Every element of a constant array is the constant. -/
@[simp] theorem vget_replicate {α : Type} {n : Nat} (a : α) (i : Nat) :
    vget a (Vector.replicate n a) i = a := by
  by_cases hi : i < n <;> simp [vget, Vector.getD, hi]

/-- A head pointer stays a slot of its buffer (00_scope.md R13). -/
theorem ringNext_lt (h len : Word) (hl : 0 < len.toNat) : (ringNext h len).toNat < len.toNat := by
  have h1 := Nat.mod_lt (h.toNat + 1) hl
  have h2 : len.toNat < 2 ^ 32 := len.isLt
  rw [ringNext, BitVec.toNat_ofNat, Nat.mod_eq_of_lt (by omega)]
  exact h1

/-- The slot of an entry of the secondary window is in the buffer. -/
theorem slotBack_lt (h len : Word) (i : Nat) (hl : 0 < len.toNat) : slotBack h len i < len.toNat :=
  Nat.mod_lt _ hl

/-- The slot of the oldest entry read is in the buffer. -/
theorem oldestSlot_lt (h len : Word) (k : Nat) (hl : 0 < len.toNat) : oldestSlot h len k < len.toNat :=
  Nat.mod_lt _ hl

end Sys2Proof.Machine
end

