-- ==== Sys2Proof/Laws/Operations.lean ====
section
/-! SUPPORT. What each shared operation can do, said once: the end of a command's rule, an access of the bus, the
accumulator's guard, the clamp, a push into the clock recovery unit, the shape of a configuration, and the code a
commit leaves. Proofs cite these and unfold none. -/

namespace Sys2Proof.Machine

section
variable {R : Type} (N : Numerics R)

/-- A needed configuration that is present: the command's rule went on to its end. -/
theorem needCr_done {r t : Regs R} {body : CmdEnd R} (h : needCr r body = .done t) :
    r.cr.derived.cfgOk ≠ 0 ∧ body = .done t := by
  unfold needCr at h
  split at h
  · cases h
  · exact ⟨‹_›, h⟩

/-- The PLL unit's twin of `needCr_done`. -/
theorem needPll_done {r t : Regs R} {body : CmdEnd R} (h : needPll r body = .done t) :
    r.pll.cfgOk ≠ 0 ∧ body = .done t := by
  unfold needPll at h
  split at h
  · cases h
  · exact ⟨‹_›, h⟩

/-- How a command's rule can end: it returns, or it raises with nothing written, but for a failed commit, which
clears its unit's `CFG_OK` first. -/
theorem commandEnd_cases (i : Instr) (r : Regs R) :
    (∃ t, commandEnd N i r = .done t) ∨
    (∃ code, commandEnd N i r = .raise code r) ∨
    (∃ code, i = .crConfig ∧ crCheck N r.crStage r.constM = some code ∧ commandEnd N i r =
      .raise code { r with cr := { r.cr with derived := { r.cr.derived with cfgOk := 0 } } }) ∨
    (∃ code, i = .pllConfig ∧ pllCheck N r.pllStage r.constM = some code ∧ commandEnd N i r =
      .raise code { r with pll := { r.pll with cfgOk := 0 } }) := by
  have hcr : ∀ b : Regs R, (∃ t, needCr r (.done b) = .done t) ∨ ∃ code, needCr r (.done b) = .raise code r := by
    intro b
    unfold needCr
    split
    · exact .inr ⟨_, rfl⟩
    · exact .inl ⟨_, rfl⟩
  have hpll : ∀ b : Regs R, (∃ t, needPll r (.done b) = .done t) ∨ ∃ code, needPll r (.done b) = .raise code r := by
    intro b
    unfold needPll
    split
    · exact .inr ⟨_, rfl⟩
    · exact .inl ⟨_, rfl⟩
  have htau : ∀ b : Regs R, (∃ t, needCr r (if tauBad N r.opb then .raise .tauRange r else .done b) = .done t) ∨
      ∃ code, needCr r (if tauBad N r.opb then .raise .tauRange r else .done b) = .raise code r := by
    intro b
    unfold needCr
    split
    · exact .inr ⟨_, rfl⟩
    · split
      · exact .inr ⟨_, rfl⟩
      · exact .inl ⟨_, rfl⟩
  cases i
  case crConfig =>
    cases h : crCheck N r.crStage r.constM with
    | none => exact .inl ⟨{ r with cr := crCommit N r }, by simp only [commandEnd, crConfigCmd, h]⟩
    | some code => exact .inr (.inr (.inl ⟨code, rfl, rfl, by simp only [commandEnd, crConfigCmd, h]⟩))
  case pllConfig =>
    cases h : pllCheck N r.pllStage r.constM with
    | none => exact .inl ⟨{ r with pll := pllCommit N r }, by simp only [commandEnd, pllConfigCmd, h]⟩
    | some code => exact .inr (.inr (.inr ⟨code, rfl, rfl, by simp only [commandEnd, pllConfigCmd, h]⟩))
  case nop => exact .inl ⟨_, rfl⟩
  case coreReset => exact .inl ⟨_, rfl⟩
  case itrpCoef => exact (htau _).elim .inl fun h => .inr (.inl h)
  case itrpEval => exact (htau _).elim .inl fun h => .inr (.inl h)
  case crReset => exact (hcr _).elim .inl fun h => .inr (.inl h)
  case crPush => exact (hcr _).elim .inl fun h => .inr (.inl h)
  case tedEval => exact (hcr _).elim .inl fun h => .inr (.inl h)
  all_goals exact (hpll _).elim .inl fun h => .inr (.inl h)

/-- The accumulator's guard leaves the registers alone, or puts `CR_ACC` at 0 and sets `ACC_NEG` (R158). -/
theorem accGuard_cases (r : Regs R) :
    (N.lt r.cr.loop.acc (zeroOf N) = false ∧ accGuard N r = r) ∨
    (N.lt r.cr.loop.acc (zeroOf N) = true ∧ accGuard N r =
      setFlag .accNeg { r with cr := { r.cr with loop := { r.cr.loop with acc := zeroOf N } } }) := by
  unfold accGuard
  cases h : N.lt r.cr.loop.acc (zeroOf N)
  · exact .inl ⟨rfl, if_neg (by decide)⟩
  · exact .inr ⟨rfl, if_pos rfl⟩

/-- Any part of the CR unit but the accumulator is the same after the guard. -/
theorem accGuard_keeps {α : Type} (f : CrUnit R → α)
    (hf : ∀ u a, f { u with loop := { u.loop with acc := a } } = f u) (r : Regs R) :
    f (accGuard N r).cr = f r.cr := by
  rcases accGuard_cases N r with ⟨_, h⟩ | ⟨_, h⟩ <;> rw [h]
  exact hf _ _

/-- A clamp answers one of its three arguments. -/
theorem clamp_cases (v lo hi : R) : clamp N v lo hi = v ∨ clamp N v lo hi = lo ∨ clamp N v lo hi = hi := by
  unfold clamp minR maxR
  split <;> split <;> simp

end

/-- A clamp of a number between finite bounds in order is finite and between them. -/
theorem clamp_between {v lo hi : F32} (hv : f32IsNaN v = false) (hlo : f32Fin lo = true) (hhi : f32Fin hi = true)
    (h : f32ToInt lo ≤ f32ToInt hi) :
    f32Le lo (clamp binary32 v lo hi) = true ∧ f32Le (clamp binary32 v lo hi) hi = true := by
  have nl := f32IsNaN_of_fin hlo
  have nh := f32IsNaN_of_fin hhi
  have h1 : f32IsNaN (maxR binary32 v lo) = false ∧ f32Le lo (maxR binary32 v lo) = true := by
    unfold maxR
    cases hc : f32Lt v lo
    · rw [binary32_lt, hc]; exact ⟨hv, f32Le_of_not_lt hv nl hc⟩
    · rw [binary32_lt, hc]; exact ⟨nl, f32Le_iff.2 ⟨nl, nl, le_refl _⟩⟩
  unfold clamp minR
  generalize maxR binary32 v lo = m at h1
  cases hc : f32Lt hi m
  · rw [binary32_lt, hc]; exact ⟨h1.2, f32Le_of_not_lt nh h1.1 hc⟩
  · rw [binary32_lt, hc]; exact ⟨f32Le_iff.2 ⟨nl, nh, h⟩, f32Le_iff.2 ⟨nh, nh, le_refl _⟩⟩

/-- A host write reaches neither unit, nor the error registers. -/
theorem storeReg_keeps {r t : Regs F32} {x : Reg} {v : Word} (h : storeReg r x v = some t) :
    t.cr = r.cr ∧ t.pll = r.pll ∧ t.errcode = r.errcode ∧ t.errcmd = r.errcmd ∧ t.res = r.res ∧ t.resE = r.resE := by
  cases x <;> simp only [storeReg] at h
  all_goals first
    | (cases h; done)
    | (injection h with h; subst h; exact ⟨rfl, rfl, rfl, rfl, rfl, rfl⟩)

/-- What serving a transaction that is no command can do: a reset, a read that changes nothing, a write of one
register, or a rejection, which sets `BUS_ERR` alone. -/
theorem serve_access_cases {r t : Regs F32} {x : HostTxn} {reply : Option Word}
    (h : serve r x = .access t reply) :
    (x = .resetPulse ∧ t = coreReset binary32 ∧ reply = none) ∨
    (∃ y, t = r ∧ reply = some (readReg r y)) ∨
    (∃ y v, storeReg r y v = some t ∧ reply = none) ∨
    (t = rejectAccess r ∧ (reply = none ∨ reply = some 0)) := by
  cases x with
  | read a n =>
    simp only [serve, busRead] at h
    cases ha : accessed a n with
    | none => rw [ha] at h; injection h with h1 h2; exact .inr (.inr (.inr ⟨h1.symm, .inr h2.symm⟩))
    | some y => rw [ha] at h; injection h with h1 h2; exact .inr (.inl ⟨y, h1.symm, h2.symm⟩)
  | write a n v =>
    simp only [serve] at h
    split at h
    · cases h
    · injection h with h1 h2
      unfold busWrite at h1
      split at h1
      · rename_i r' hs
        cases ha : accessed a n with
        | none => rw [ha] at hs; cases hs
        | some y => rw [ha] at hs; subst h1; exact .inr (.inr (.inl ⟨y, v, hs, h2.symm⟩))
      · exact .inr (.inr (.inr ⟨h1.symm, .inl h2.symm⟩))
  | resetPulse => injection h with h1 h2; exact .inl ⟨rfl, h1.symm, h2.symm⟩

/-- What a push does to the parts of the CR unit that no arithmetic reaches. -/
structure PushKeeps (u v : CrUnit F32) : Prop where
  /-- The live configuration stays. -/
  live : v.live = u.live
  /-- The derived registers stay. -/
  derived : v.derived = u.derived
  /-- The constellation snapshot's size stays. -/
  cm : v.cm = u.cm
  /-- The constellation snapshot stays. -/
  cpt : v.cpt = u.cpt
  /-- The phase table stays. -/
  tab : v.tab = u.tab
  /-- The taps last written stay. -/
  coef : v.coef = u.coef
  /-- The window's head moves by one. -/
  whead : v.loop.whead = ringNext u.loop.whead u.live.wlen
  /-- The secondary window's head stays, or moves by one. -/
  shead : v.loop.shead = u.loop.shead ∨ v.loop.shead = ringNext u.loop.shead u.live.slen
  /-- The emission count stays, or moves by one. -/
  cnt : v.loop.cnt = u.loop.cnt ∨ v.loop.cnt = ringNext u.loop.cnt u.derived.osfTed

/-- A `CR_PUSH` that ran keeps the configuration and moves its indices by at most one (R157, R160). -/
theorem crPushCmd_keeps {r t : Regs F32} (h : crPushCmd binary32 r = .done t) : PushKeeps r.cr t.cr := by
  obtain ⟨_, h⟩ := needCr_done h
  injection h with h
  subst h
  suffices hs : ∀ q : Regs F32, q.cr.live = r.cr.live → q.cr.derived = r.cr.derived → q.cr.cm = r.cr.cm →
      q.cr.cpt = r.cr.cpt → q.cr.tab = r.cr.tab → q.cr.coef = r.cr.coef →
      q.cr.loop.whead = ringNext r.cr.loop.whead r.cr.live.wlen → q.cr.loop.shead = r.cr.loop.shead →
      q.cr.loop.cnt = r.cr.loop.cnt → PushKeeps r.cr (awaitOrEmit binary32 q).cr by
    apply hs
    case _ => simp
    case _ => simp
    case _ => simp
    case _ => simp
    case _ => simp
    case _ => simp
    case _ => exact (accGuard_keeps binary32 (fun u => u.loop.whead) (by intros; rfl) _).trans (by simp [takeSample, pushW])
    case _ => exact (accGuard_keeps binary32 (fun u => u.loop.shead) (by intros; rfl) _).trans (by simp [takeSample, pushW])
    case _ => exact (accGuard_keeps binary32 (fun u => u.loop.cnt) (by intros; rfl) _).trans (by simp [takeSample, pushW])
  intro q e1 e2 e3 e4 e5 e6 e7 e8 e9
  have hsh : ringNext q.cr.loop.shead q.cr.live.slen = ringNext r.cr.loop.shead r.cr.live.slen :=
    congrArg₂ ringNext e8 (congrArg _ e1)
  have hct : ringNext q.cr.loop.cnt q.cr.derived.osfTed = ringNext r.cr.loop.cnt r.cr.derived.osfTed :=
    congrArg₂ ringNext e9 (congrArg _ e2)
  unfold awaitOrEmit
  split
  · exact ⟨e1, e2, e3, e4, e5, e6, e7, .inl e8, .inl e9⟩
  · unfold emit
    simp only
    split
    · unfold applySymbol
      simp only
      constructor
      case shead =>
        refine .inr ((accGuard_keeps binary32 (fun u => u.loop.shead) (by intros; rfl) _).trans ?_)
        simpa [emitSample, pushS] using hsh
      case cnt =>
        refine .inr ((accGuard_keeps binary32 (fun u => u.loop.cnt) (by intros; rfl) _).trans ?_)
        simpa [emitSample, pushS] using hct
      case whead =>
        refine (accGuard_keeps binary32 (fun u => u.loop.whead) (by intros; rfl) _).trans ?_
        simpa [emitSample, pushS] using e7
      case live => simpa using e1
      case derived => simpa using e2
      case cm => simpa using e3
      case cpt => simpa using e4
      case tab => simpa using e5
      case coef => simpa using e6
    · exact ⟨e1, e2, e3, e4, e5, e6, e7, .inr hsh, .inr hct⟩

/-! ### The shape of a configuration and the code a commit leaves -/

/-- A word is a small constant exactly when its number is. -/
theorem word_eq_iff (w : Word) {n : Nat} (hn : n < 2 ^ 32) : w = BitVec.ofNat 32 n ↔ w.toNat = n := by
  constructor
  · rintro rfl
    simpa using hn
  · intro h
    apply BitVec.eq_of_toNat_eq
    rw [h, BitVec.toNat_ofNat, Nat.mod_eq_of_lt hn]

/-- `K` of a configuration, as a case on the kind's word (40_interpolator.md R100). -/
theorem tapCount_eq {R : Type} (c : CrConf R) :
    tapCount c =
      if c.kind = 0 then 2 else if c.kind = 1 then 4 else if c.kind = 2 then c.deg.toNat + 1 else c.sincK.toNat := by
  simp only [show (c.kind = 0) = (c.kind.toNat = 0) from propext (word_eq_iff _ (by decide)),
    show (c.kind = 1) = (c.kind.toNat = 1) from propext (word_eq_iff _ (by decide)),
    show (c.kind = 2) = (c.kind.toNat = 2) from propext (word_eq_iff _ (by decide))]
  unfold tapCount
  split <;> simp_all

/-- `P` of a configuration, as a case on the kind's word (40_interpolator.md R101). -/
theorem delayOf_eq {R : Type} (c : CrConf R) :
    delayOf c =
      if c.kind = 0 then 0 else if c.kind = 1 then 1
      else if c.kind = 2 then (if tapCount c = 2 then 0 else tapCount c / 2) else tapCount c / 2 := by
  simp only [show (c.kind = 0) = (c.kind.toNat = 0) from propext (word_eq_iff _ (by decide)),
    show (c.kind = 1) = (c.kind.toNat = 1) from propext (word_eq_iff _ (by decide)),
    show (c.kind = 2) = (c.kind.toNat = 2) from propext (word_eq_iff _ (by decide))]
  unfold delayOf
  split <;> simp_all

/-- `npts` of a configuration, as a case on the kind's word (41_ted.md R130). -/
theorem tedNpts_eq {R : Type} (c : CrConf R) :
    tedNpts c = if c.ted = 0 then 3 else if c.ted = 1 then 2 else 4 := by
  simp only [show (c.ted = 0) = (c.ted.toNat = 0) from propext (word_eq_iff _ (by decide)),
    show (c.ted = 1) = (c.ted.toNat = 1) from propext (word_eq_iff _ (by decide))]
  unfold tedNpts
  split <;> simp_all

/-- `osf` of a configuration, as a case on the kind's word (41_ted.md R130). -/
theorem tedOsf_eq {R : Type} (c : CrConf R) : tedOsf c = if c.ted = 1 then 1 else 2 := by
  simp only [show (c.ted = 1) = (c.ted.toNat = 1) from propext (word_eq_iff _ (by decide))]
  unfold tedOsf
  split <;> simp_all

/-- `ERRCODE` after `CR_CONFIG` is the check's code, or 0. -/
theorem crConfig_errcode {R : Type} (N : Numerics R) (r : Regs R) :
    (command N .crConfig r).errcode = ((crCheck N r.crStage r.constM).map errCodeWord).getD 0 := by
  simp only [command, commandEnd, crConfigCmd]
  split <;> rename_i h <;> simp [h, raiseCmdError]

/-- `ERRCODE` after `PLL_CONFIG` is the check's code, or 0. -/
theorem pllConfig_errcode {R : Type} (N : Numerics R) (r : Regs R) :
    (command N .pllConfig r).errcode = ((pllCheck N r.pllStage r.constM).map errCodeWord).getD 0 := by
  simp only [command, commandEnd, pllConfigCmd]
  split <;> rename_i h <;> simp [h, raiseCmdError]

end Sys2Proof.Machine
end

