-- ==== Sys2Proof/Laws/PerInstr.lean ====
section
/-! SUPPORT. Statements made per instruction. -/

namespace Sys2Proof.Laws.RoundTrip

/-- The one word of an instruction decodes to it, and its reserved field is 0 (30_encoding.md R81, R83). -/
def Statement (i : Instr) : Prop := decode (encode i) = .ok i ∧ rsvField (encode i) = 0#24

theorem nop : Statement .nop := ⟨rfl, by decide⟩
theorem crConfig : Statement .crConfig := ⟨rfl, by decide⟩
theorem crReset : Statement .crReset := ⟨rfl, by decide⟩
theorem crPush : Statement .crPush := ⟨rfl, by decide⟩
theorem itrpCoef : Statement .itrpCoef := ⟨rfl, by decide⟩
theorem itrpEval : Statement .itrpEval := ⟨rfl, by decide⟩
theorem tedEval : Statement .tedEval := ⟨rfl, by decide⟩
theorem pllConfig : Statement .pllConfig := ⟨rfl, by decide⟩
theorem pllReset : Statement .pllReset := ⟨rfl, by decide⟩
theorem pllPush : Statement .pllPush := ⟨rfl, by decide⟩
theorem pedEval : Statement .pedEval := ⟨rfl, by decide⟩
theorem lfStep : Statement .lfStep := ⟨rfl, by decide⟩
theorem ncoStep : Statement .ncoStep := ⟨rfl, by decide⟩
theorem coreReset : Statement .coreReset := ⟨rfl, by decide⟩

end Sys2Proof.Laws.RoundTrip
end

