-- ==== Sys2Proof/Tests/Slice0.lean ====
section
/-! SUPPORT. Tests of one step each, with the values of the spec's vectors (95_test_vectors.md, named by their
ids), and a witness for every statement that has hypotheses. -/

namespace Sys2Proof.Tests

set_option Elab.async false

open Sys2Proof.Machine

/-! ## Small states -/

/-- The registers after reset. -/
def r0 : Regs F32 := Regs.zeroed F32.zero

/-- A machine with nothing pending. -/
def idle (r : Regs F32) : State := { regs := r, pending := [], reply := none }

/-- A machine whose host issues one transaction. -/
def host (t : HostTxn) (r : Regs F32) : State := { regs := r, pending := [t], reply := none }

/-- The machine a step leaves. -/
def next (o : Host.Outcome State Fault Refusal) : State :=
  match o with
  | .next t => t
  | _ => State.reset

/-- The registers a command leaves. -/
def after (i : Instr) (r : Regs F32) : Regs F32 := (next (exec i (idle r))).regs

/-- The machine after the host's one transaction. -/
def served (t : HostTxn) (r : Regs F32) : State := next (step (host t r))

/-- A real sample. -/
def re32 (w : Word) : Cx F32 := ⟨⟨w⟩, F32.zero⟩

/-- The staging of CFG-1: `LINEAR`, `GARDNER`, `WLEN 2`, `SLEN 3`, `OSF_IN 4`, `TC 5`. -/
def cfg1 : CrConf F32 :=
  { CrConf.zeroed F32.zero with wlen := 2, slen := 3, osfIn := ⟨0x40800000#32⟩, tc := ⟨0x40A00000#32⟩ }

/-- The staging of CFG-3: `LINEAR`, `MM`, `WLEN 2`, `SLEN 2`, `OSF_IN 1`, `TC 5`. -/
def cfg3 : CrConf F32 := { cfg1 with ted := 1, slen := 2, osfIn := ⟨0x3F800000#32⟩ }

/-- The staging of CFG-4 with `TC 5`: `LAGRANGE` of degree 3, `EL`. -/
def cfg4 : CrConf F32 := { cfg1 with kind := 2, deg := 3, ted := 2, wlen := 4, slen := 4 }

/-- `CSPLINE` with `WLEN 4`. -/
def cfgSpline : CrConf F32 := { cfg1 with kind := 1, wlen := 4 }

/-- `SINC` of ITRP-7. -/
def cfgSinc : CrConf F32 :=
  { cfg1 with kind := 3, sincK := 4, sincNph := 2, sincFc := ⟨0x3F000000#32⟩, wlen := 4 }

/-- BPSK: `(-1, 0)`, `(1, 0)`. -/
def bpsk : Vector (Cx F32) Config.maxM :=
  vput (vput (Vector.replicate _ ⟨F32.zero, F32.zero⟩) 0 (re32 0xBF800000#32)) 1 (re32 0x3F800000#32)

/-- The registers with a staged CR configuration and BPSK. -/
def staged (c : CrConf F32) : Regs F32 := { r0 with crStage := c, constM := 2, constPt := bpsk }

/-- The registers after its commit. -/
def crOn (c : CrConf F32) : Regs F32 := command binary32 .crConfig (staged c)

/-- Order 1, `alpha 0.5` (PCFG-2). -/
def pcfg2 : PllConf F32 := { PllConf.zeroed F32.zero with order := 1, alpha := ⟨0x3F000000#32⟩ }

/-- Order 2, `BL 0.25`, `eta 0.5` (PCFG-1). -/
def pcfg1 : PllConf F32 :=
  { PllConf.zeroed F32.zero with order := 2, bl := ⟨0x3E800000#32⟩, eta := ⟨0x3F000000#32⟩ }

/-- The registers with a staged PLL configuration and BPSK. -/
def pllStaged (c : PllConf F32) : Regs F32 := { r0 with pllStage := c, constM := 2, constPt := bpsk }

/-- The registers after its commit. -/
def pllOn (c : PllConf F32) : Regs F32 := command binary32 .pllConfig (pllStaged c)

/-- The registers with the window, oldest entry first, and `OPB`. -/
def withWindow (zs : List (Cx F32)) (tau : Word) (r : Regs F32) : Regs F32 :=
  { r with opb := ⟨tau⟩, cr := zs.foldl (fun u z => pushW z u) r.cr }

/-- The registers with the secondary window, oldest entry first. -/
def withSecondary (zs : List (Cx F32)) (r : Regs F32) : Regs F32 :=
  { r with cr := zs.foldl (fun u z => pushS z u) r.cr }

/-! ## Decoding: words written out from the encoding of R81 and the map of R83 -/

theorem test_decode_nop : decode 0b00000000_000000000000000000000000#32 = .ok .nop := by decide
theorem test_decode_cr_config : decode 0b00000001_000000000000000000000000#32 = .ok .crConfig := by decide
theorem test_decode_cr_reset : decode 0b00000010_000000000000000000000000#32 = .ok .crReset := by decide
theorem test_decode_cr_push : decode 0b00000011_000000000000000000000000#32 = .ok .crPush := by decide
theorem test_decode_itrp_coef : decode 0b00000100_000000000000000000000000#32 = .ok .itrpCoef := by decide
theorem test_decode_itrp_eval : decode 0b00000101_000000000000000000000000#32 = .ok .itrpEval := by decide
theorem test_decode_ted_eval : decode 0b00000110_000000000000000000000000#32 = .ok .tedEval := by decide
theorem test_decode_pll_config : decode 0b00010000_000000000000000000000000#32 = .ok .pllConfig := by decide
theorem test_decode_pll_reset : decode 0b00010001_000000000000000000000000#32 = .ok .pllReset := by decide
theorem test_decode_pll_push : decode 0b00010010_000000000000000000000000#32 = .ok .pllPush := by decide
theorem test_decode_ped_eval : decode 0b00010011_000000000000000000000000#32 = .ok .pedEval := by decide
theorem test_decode_lf_step : decode 0b00010100_000000000000000000000000#32 = .ok .lfStep := by decide
theorem test_decode_nco_step : decode 0b00010101_000000000000000000000000#32 = .ok .ncoStep := by decide
theorem test_decode_core_reset : decode 0b00100000_000000000000000000000000#32 = .ok .coreReset := by decide

/-- CTL-2 to CTL-5: a reserved bit, or an unassigned opcode. -/
theorem test_decode_refuses :
    decode 0x03000001#32 = .error .reservedBits ∧ decode 0x00000001#32 = .error .reservedBits ∧
    decode 0x07000000#32 = .error .unassignedOpcode ∧ decode 0xFF000000#32 = .error .unassignedOpcode ∧
    decode 0x16000000#32 = .error .unassignedOpcode ∧ decode 0x21000000#32 = .error .unassignedOpcode := by decide

theorem test_decode_table_word :
    decodeTableWord 32 0x14000000 = some .lfStep ∧ decodeTableWord 32 0x14000100 = none := by decide

/-! ## Well-formedness -/

/-- A half-word and a misaligned word are refused by the check. -/
theorem test_wellformed_refuses :
    HostTxn.wellFormed (.read 0x020 2) = false ∧ HostTxn.wellFormed (.write 0x020 8 0) = false ∧
    HostTxn.wellFormed (.read 0x002 4) = false ∧ HostTxn.wellFormed (.write 0x00E 4 0) = false := by decide

theorem test_wellformed_accepts :
    HostTxn.wellFormed (.read 0x020 4) = true ∧ HostTxn.wellFormed .resetPulse = true ∧
    Instr.wellFormed .ncoStep = true := by decide

/-! ## Binary32 (the layouts of R96) -/

/-- 1 + 2^-24 is a tie and goes to the even 1; 1 + 3 * 2^-24 is a tie and goes up to the even neighbour. -/
theorem test_add_ties_to_even :
    f32Add ⟨0x3F800000#32⟩ ⟨0x33800000#32⟩ = ⟨0x3F800000#32⟩ ∧
    f32Add ⟨0x3F800001#32⟩ ⟨0x33800000#32⟩ = ⟨0x3F800002#32⟩ := by decide +kernel

theorem test_mul_overflow_and_underflow :
    f32Mul ⟨0x7F7FFFFF#32⟩ ⟨0x40000000#32⟩ = ⟨0x7F800000#32⟩ ∧ f32Mul ⟨0x00000001#32⟩ ⟨0x3F000000#32⟩ = F32.zero ∧
    f32Mul ⟨0x80000003#32⟩ ⟨0x3F000000#32⟩ = ⟨0x80000002#32⟩ := by decide +kernel

theorem test_div_and_floor :
    f32Div ⟨0x3F800000#32⟩ ⟨0x40400000#32⟩ = ⟨0x3EAAAAAB#32⟩ ∧ f32Floor ⟨0xBF000000#32⟩ = ⟨0xBF800000#32⟩ := by
  decide +kernel

/-! ## The host bus (BUS-1 to BUS-14) -/

theorem test_bus_reads :
    (served (.read 0x000 4) r0).reply = some 0x54534431#32 ∧ (served (.read 0x00C 4) r0).reply = some 0 ∧
    (served (.read 0x018 4) r0).reply = some 0 ∧ (served (.read 0x018 4) r0).regs.status = 8 ∧
    (served (.read 0x002 4) r0).regs.status = 8 ∧ (served (.read 0x02C 4) r0).regs.status = 8 ∧
    (served (.read 0x020 2) r0).regs.status = 8 ∧ (served (.read 0x000 4) r0).regs.status = 0 := by decide +kernel

theorem test_bus_rejected_writes :
    (served (.write 0x000 4 5) r0).regs.status = 8 ∧ (served (.write 0x000 4 5) r0).regs.errcode = 0 ∧
    (served (.write 0x030 4 5) r0).regs.status = 8 ∧ (served (.write 0x030 4 5) r0).regs.res = ⟨F32.zero, F32.zero⟩ ∧
    (served (.write 0x800 4 5) r0).regs.status = 8 ∧ (served (.write 0x020 2 5) r0).regs.opa.i = F32.zero := by
  decide +kernel

theorem test_bus_status :
    (served (.write 0x008 4 1) { r0 with status := 3 }).regs.status = 2 ∧
    (served (.write 0x008 4 0x10) { r0 with status := 3 }).regs.status = 3 ∧
    (served (.write 0x008 4 0xF) { r0 with status := 0xF }).regs.status = 0 := by decide +kernel

theorem test_bus_stores :
    (served (.write 0x300 4 100) r0).regs.constM = 100 ∧ (served (.write 0x104 4 40) r0).regs.crStage.deg = 40 ∧
    (served (.write 0x104 4 40) r0).regs.cr.live.deg = 0 ∧
    (served (.write 0x5FC 4 7) r0).regs.constPt[63].q = ⟨7⟩ := by decide +kernel

/-- Only the low 12 address bits are decoded (20_memory.md R61). -/
theorem test_bus_offset :
    (served (.write 0x40000028 4 0x3F800000#32) r0).regs.opb = ⟨0x3F800000#32⟩ := by decide +kernel

/-- CTL-3 through the bus: an unassigned opcode. -/
theorem test_illegal_word :
    (served (.write 0x00C 4 0x07000000#32) r0).regs.errcode = 1 ∧
    (served (.write 0x00C 4 0x07000000#32) r0).regs.errcmd = 0x07000000#32 ∧
    (served (.write 0x00C 4 0x07000000#32) r0).regs.status = 1 := by decide +kernel

/-- `withFetchWord` runs the word on the very next step. -/
theorem test_with_fetch_word :
    step (State.reset.withFetchWord 32 0x03000000) = exec .crPush State.reset := rfl

/-- The host's write of `CMD` at the platform's `BASE` runs the word, too (log 3). -/
theorem test_command_at_base :
    step (host (issue Config.base .crPush) r0) = exec .crPush (idle r0) := by
  have h : offsetOf (Config.base + 0x00C) = 0x00C := by
    simp only [offsetOf, Config.base, Config.windowBytes]; omega
  have h4 : accessed (Config.base + 0x00C) 4 = some .cmd := by rw [accessed, h]; rfl
  simp only [step, host, issue, writeTo, writeAt, regOffset, serve, h4]
  rfl

/-- R95: `itrp.eval t` is two transactions. -/
theorem test_expand :
    expand 0x40000000 (.itrpEval ⟨0x3F000000#32⟩) =
      [.write 0x40000028 4 0x3F000000#32, .write 0x4000000C 4 0x05000000#32] := by decide

/-! ## Commands, one step each -/

/-- CTL-1. -/
theorem test_nop :
    (after .nop { r0 with errcode := 2, errcmd := 0x03000000, status := 1 }).errcode = 0 ∧
    (after .nop { r0 with errcode := 2, errcmd := 0x03000000, status := 1 }).errcmd = 0x03000000 ∧
    (after .nop { r0 with errcode := 2, errcmd := 0x03000000, status := 1 }).status = 1 := by decide +kernel

/-- CTL-7. -/
theorem test_core_reset :
    (after .coreReset { crOn cfg1 with status := 7, opb := ⟨5⟩ }).status = 0 ∧
    (after .coreReset { crOn cfg1 with status := 7, opb := ⟨5⟩ }).opb = F32.zero ∧
    (after .coreReset { crOn cfg1 with status := 7, opb := ⟨5⟩ }).cr.derived.cfgOk = 0 ∧
    (after .coreReset { crOn cfg1 with status := 7, opb := ⟨5⟩ }).constM = 0 := by decide +kernel

/-- CFG-1. -/
theorem test_cr_config :
    let r := after .crConfig (staged cfg1)
    r.cr.derived.k = 2 ∧ r.cr.derived.delay = 0 ∧ r.cr.derived.npts = 3 ∧ r.cr.derived.osfTed = 2 ∧
    r.cr.derived.ratio = ⟨0x40000000#32⟩ ∧ r.cr.loop.acc = ⟨0x40000000#32⟩ ∧ r.cr.derived.cfgOk = 1 ∧
    r.errcode = 0 := by decide +kernel

/-- CFG-14, CFG-17, CFG-19, CFG-22, CFG-23: the error code, and the unit left unconfigured. -/
theorem test_cr_config_fails :
    (after .crConfig (staged { cfg1 with wlen := 1 })).errcode = 7 ∧
    (after .crConfig (staged { cfg1 with slen := 2 })).errcode = 8 ∧
    (after .crConfig (staged { cfg1 with osfIn := ⟨0x3F800000#32⟩ })).errcode = 9 ∧
    (after .crConfig { staged { cfg1 with ted := 1 } with constM := 65 }).errcode = 10 ∧
    (after .crConfig (staged { cfg1 with kind := 4, ted := 3, wlen := 0 })).errcode = 5 ∧
    (after .crConfig { crOn cfg1 with crStage := { cfg1 with wlen := 1 } }).cr.derived.cfgOk = 0 := by decide +kernel

/-- CR-7. -/
theorem test_cr_reset :
    let r := after .crReset { withWindow [re32 5, re32 6, re32 7] 0 (crOn cfg1) with status := 2 }
    r.cr.loop.acc = ⟨0x40000000#32⟩ ∧ r.cr.loop.whead = 0 ∧ vget (re32 1) r.cr.loop.w 0 = re32 0 ∧ r.status = 2 := by
  decide +kernel

/-- CR-3, push 1: it emits `y = 4` at `tau = 1`. -/
theorem test_cr_push :
    let r := after .crPush { crOn cfg1 with opa := re32 0x40800000#32 }
    vget (re32 1) r.cr.loop.s 0 = re32 0x40800000#32 ∧ r.cr.loop.acc = ⟨0x40400000#32⟩ ∧ r.cr.loop.cnt = 1 ∧
    r.cr.loop.nin = 1 ∧ r.cr.loop.whead = 1 ∧ r.cr.loop.outValid = 0 := by decide +kernel

/-- CR-5, and CR-8 in a core just reset. -/
theorem test_cr_push_nonfinite :
    (after .crPush { crOn cfg1 with opa := re32 0x7FC00000#32 }).status = 4 ∧
    vget (re32 1) (after .crPush { crOn cfg1 with opa := re32 0x7FC00000#32 }).cr.loop.w 0 = re32 0 ∧
    (after .crPush r0).errcode = 2 := by decide +kernel

/-- ITRP-5. -/
theorem test_itrp_coef :
    let c := (after .itrpCoef { crOn cfgSpline with opb := ⟨0x3E800000#32⟩ }).cr.coef
    vget F32.zero c 0 = ⟨0xBD900000#32⟩ ∧ vget F32.zero c 1 = ⟨0x3F5E0000#32⟩ ∧
    vget F32.zero c 2 = ⟨0x3E680000#32⟩ ∧ vget F32.zero c 3 = ⟨0xBCC00000#32⟩ ∧ vget F32.zero c 4 = F32.zero := by
  decide +kernel

/-- ITRP-14: `LAGRANGE`, degree 3, at 0.5; TAU-4 and TAU-2 for `LINEAR`. -/
theorem test_itrp_coef_lagrange :
    let c := (after .itrpCoef { crOn cfg4 with opb := ⟨0x3F000000#32⟩ }).cr.coef
    vget F32.zero c 0 = ⟨0x3D800000#32⟩ ∧ vget F32.zero c 1 = ⟨0xBEA00000#32⟩ ∧
    vget F32.zero c 2 = ⟨0x3F700000#32⟩ ∧ vget F32.zero c 3 = ⟨0x3EA00000#32⟩ ∧
    (after .itrpCoef { crOn cfg1 with opb := ⟨0x80000000#32⟩ }).errcode = 0 ∧
    (after .itrpCoef { crOn cfg1 with opb := ⟨0x3FC00000#32⟩ }).errcode = 4 := by decide +kernel

/-- EVAL-2 and EVAL-7. -/
theorem test_itrp_eval :
    (after .itrpEval (withWindow [⟨⟨0x3F800000#32⟩, ⟨0x3F800000#32⟩⟩, ⟨⟨0x40400000#32⟩, ⟨0xBF800000#32⟩⟩] 0x3F000000#32
      (crOn cfg1))).res = re32 0x40000000#32 ∧
    (after .itrpEval (withWindow [re32 0x40E00000#32, re32 0x40E00000#32, re32 0x3F800000#32, re32 0x40400000#32]
      0x3E800000#32 (crOn { cfg1 with wlen := 4 }))).res = re32 0x3FC00000#32 := by decide +kernel

/-- EVAL-5, and TAU-3: NaN raises `TAU_RANGE` without `NONFINITE`. -/
theorem test_itrp_eval_spline :
    (after .itrpEval (withWindow [re32 0, re32 0x3F800000#32, re32 0x40800000#32, re32 0x41100000#32] 0x3F000000#32
      (crOn cfgSpline))).res = re32 0x40100000#32 ∧
    (after .itrpEval { crOn cfg1 with opb := ⟨0x7FC00000#32⟩ }).status = 1 ∧
    (after .itrpEval { crOn cfg1 with opb := ⟨0x7FC00000#32⟩ }).errcode = 4 := by decide +kernel

/-- TED-1 and TED-4 (`GARDNER`). -/
theorem test_ted_eval :
    (after .tedEval (withSecondary [⟨⟨0xBF800000#32⟩, ⟨0xBF800000#32⟩⟩, ⟨F32.zero, ⟨0x3F000000#32⟩⟩,
      ⟨⟨0x3F800000#32⟩, ⟨0x3F800000#32⟩⟩] (crOn cfg1))).resE = ⟨0x3F800000#32⟩ ∧
    (after .tedEval (withSecondary [re32 0, re32 0x40800000#32, re32 0x40800000#32] (crOn cfg1))).resE =
      ⟨0x41800000#32⟩ := by decide +kernel

/-- TED-6 (`MM`, with a tie) and TED-8 (`EL`). -/
theorem test_ted_eval_kinds :
    (after .tedEval (withSecondary [re32 0, re32 0x3F800000#32] (crOn cfg3))).resE = ⟨0x3F800000#32⟩ ∧
    (after .tedEval (withSecondary [re32 0x3F400000#32, re32 0x41100000#32, ⟨F32.zero, ⟨0x3F000000#32⟩⟩,
      re32 0x40A00000#32] (crOn cfg4))).resE = ⟨0x3EA00000#32⟩ := by decide +kernel

/-- PCFG-1. -/
theorem test_pll_config :
    let r := after .pllConfig (pllStaged pcfg1)
    r.pll.gamma = ⟨0x3F000000#32⟩ ∧ r.pll.rho = ⟨0x3F000000#32⟩ ∧ r.pll.cfgOk = 1 ∧ r.errcode = 0 := by decide +kernel

/-- PCFG-5, PCFG-9, PCFG-10, PCFG-11, PCFG-13. -/
theorem test_pll_config_fails :
    (after .pllConfig r0).errcode = 11 ∧
    (after .pllConfig (pllStaged { pcfg2 with alpha := ⟨0x7FC00000#32⟩ })).errcode = 14 ∧
    (after .pllConfig (pllStaged { pcfg1 with alpha := ⟨0x7FC00000#32⟩ })).errcode = 0 ∧
    (after .pllConfig (pllStaged { pcfg2 with w0 := ⟨0x7F800000#32⟩ })).errcode = 14 ∧
    (after .pllConfig (pllStaged { pcfg2 with ped := 2, outsel := 2 })).errcode = 12 := by decide +kernel

/-- PLL-6, after an `LF_STEP` of 1. -/
theorem test_pll_reset :
    let r := after .lfStep { pllOn pcfg1 with opb := ⟨0x3F800000#32⟩ }
    r.pll.loop.mu = ⟨0x3F400000#32⟩ ∧ (after .pllReset r).pll.loop.mu = F32.zero ∧
    (after .pllReset r).pll.gamma = ⟨0x3F000000#32⟩ := by decide +kernel

/-- PLL-5: a NaN sample becomes `0c`; PLL-7. -/
theorem test_pll_push :
    (after .pllPush { pllOn pcfg2 with opa := re32 0x7FC00000#32 }).status = 4 ∧
    (after .pllPush { pllOn pcfg2 with opa := re32 0x7FC00000#32 }).pll.loop.nin = 1 ∧
    (after .pllPush r0).errcode = 3 := by decide +kernel

/-- PED-3, and the decision of PED-6 (a tie goes to the lower index). -/
theorem test_ped_eval :
    (after .pedEval (pllOn pcfg2)).resE = F32.zero ∧
    (after .pedEval { pllOn { pcfg2 with ped := 1 } with opa := ⟨F32.zero, ⟨0x3F800000#32⟩⟩ }).res =
      re32 0xBF800000#32 := by decide +kernel

/-- LF-1. -/
theorem test_lf_step :
    let r := after .lfStep { pllOn pcfg2 with opb := ⟨0x3F800000#32⟩ }
    r.resE = ⟨0x3F000000#32⟩ ∧ r.pll.loop.theta = ⟨0x3F000000#32⟩ ∧ r.pll.loop.eprev = ⟨0x3F800000#32⟩ ∧
    r.pll.loop.mu = F32.zero ∧ r.pll.loop.phi = F32.zero := by decide +kernel

/-- LF-4, its second update: `delta` is the earlier `mu`. -/
theorem test_lf_step_second_order :
    let r := after .lfStep (after .lfStep { pllOn pcfg1 with opb := ⟨0x3F800000#32⟩ })
    r.resE = ⟨0x3F400000#32⟩ ∧ r.pll.loop.mu = ⟨0x3F800000#32⟩ := by decide +kernel

/-- NCO-1 and NCO-5: the phase. -/
theorem test_nco_step :
    (after .ncoStep { pllOn pcfg2 with opb := ⟨0x3FE00000#32⟩ }).pll.loop.phi = ⟨0x3FE00000#32⟩ ∧
    (after .ncoStep (pllOn { pcfg2 with w0 := ⟨0x3E800000#32⟩ })).pll.loop.phi = ⟨0x3E800000#32⟩ ∧
    (after .ncoStep { pllOn pcfg2 with opb := ⟨0x7FC00000#32⟩ }).status = 4 := by decide +kernel

/-! ## Witnesses: for each statement with hypotheses, a concrete case that meets all of them together -/

theorem witness_IllegalWordOnlyRaisesIllegalCmd :
    (host (.write 0x4000000C 4 0x00000001#32) r0).pending = .write 0x4000000C 4 0x00000001#32 :: [] ∧
    offsetOf 0x4000000C = 0x00C ∧ ∀ i : Instr, (0x00000001#32 : Word) ≠ encode i :=
  ⟨rfl, by decide, fun i => by cases i <;> decide⟩

theorem witness_StepExecutesTheDecodedCommand :
    (host (.write 0x00C 4 0x20000000#32) r0).pending = .write 0x00C 4 0x20000000#32 :: [] ∧
    offsetOf 0x00C = 0x00C ∧ decode 0x20000000#32 = .ok .coreReset := ⟨rfl, by decide, by decide⟩

theorem witness_EachCommandLeavesOnlyItsErrorCodes :
    ∃ t, exec .crConfig (idle r0) = .next t ∧ t.regs.errcode = 7 := ⟨_, rfl, by decide +kernel⟩

theorem witness_UnconfiguredUnitRefusesItsCommands :
    State.reset.regs.cr.derived.cfgOk = 0 ∧ Instr.crReset ∈ crCommands ∧ Instr.crReset ≠ .crConfig ∧
    State.reset.regs.pll.cfgOk = 0 ∧ Instr.ncoStep ∈ pllCommands ∧ Instr.ncoStep ≠ .pllConfig := by
  refine ⟨rfl, by decide, by decide, rfl, by decide, by decide⟩

/-- CFG-1's unit with `CR_ACC` at 0.5, which a push takes below 0. -/
def lowAcc : Regs F32 :=
  { crOn cfg1 with cr := { (crOn cfg1).cr with loop := { (crOn cfg1).cr.loop with acc := ⟨0x3F000000#32⟩ } } }

/-- Each clause's premise: a flag set before; each flag set by its cause. -/
theorem witness_FlagsAreStickyAndSetOnlyByTheirCause :
    (∃ t, exec .nop (idle { r0 with status := 0xF }) = .next t ∧ Instr.nop ≠ .coreReset ∧
      hasFlag .accNeg { r0 with status := 0xF } = true) ∧
    (∃ t, exec .pedEval (idle r0) = .next t ∧ hasFlag .cmdErr t.regs = true) ∧
    (∃ t, exec .crPush (idle lowAcc) = .next t ∧ hasFlag .accNeg t.regs = true) ∧
    (∃ t, exec .lfStep (idle { pllOn pcfg2 with opb := ⟨0x7F800000#32⟩ }) = .next t ∧
      hasFlag .nonfinite t.regs = true) :=
  ⟨⟨_, rfl, by decide, by decide⟩, ⟨_, rfl, by decide +kernel⟩, ⟨_, rfl, by decide +kernel⟩, ⟨_, rfl, by decide +kernel⟩⟩

theorem witness_HardwareResetIsCoreReset :
    (host .resetPulse (crOn cfg1)).pending = .resetPulse :: [] ∧ decode 0x20000000#32 = .ok .coreReset :=
  ⟨rfl, by decide⟩

theorem witness_UnitResetsRewindTheLoops :
    (crOn cfg1).cr.derived.cfgOk = 1 ∧ (pllOn pcfg1).pll.cfgOk = 1 := by decide +kernel

theorem witness_OnlyTheOffsetIsDecoded : 0x0FFF < 4096 ∧ (0x00C : Nat) % 4096 = 0xFFFFF00C % 4096 := by decide

/-- Each way to be rejected: a half-word, a misaligned word, the last unmapped word of the window; and for writes
a read-only register, too. -/
theorem witness_RejectedAccessOnlySetsBusErr :
    (host (.read 0x020 2) r0).pending = .read 0x020 2 :: [] ∧ (2 : Nat) ≠ 4 ∧
    (host (.read 0x023 4) r0).pending = .read 0x023 4 :: [] ∧ offsetOf 0x023 % 4 ≠ 0 ∧
    (host (.read 0xFFC 4) r0).pending = .read 0xFFC 4 :: [] ∧ regAt 0xFFC = none ∧
    (host (.write 0x000 4 5) r0).pending = .write 0x000 4 5 :: [] ∧ regOffset .id = offsetOf 0x000 ∧
    hostWritable .id = false := by
  refine ⟨rfl, by decide, rfl, by decide, rfl, by decide, rfl, by decide, rfl⟩

/-- The same for the statement's own form of "unmapped": no register is at the last word of the window. -/
theorem witness_unmapped : ∀ x : Reg, regOffset x ≠ offsetOf 0xFFC := by
  intro x
  cases x <;> simp only [regOffset, offsetOf, Config.windowBytes] <;> first
    | omega
    | (rename_i i
       have h := i.isLt
       simp only [Config.maxM, Config.maxWlen, Config.maxSlen, Config.maxK] at h
       omega)

theorem witness_ReadReturnsTheRegisterAndHasNoSideEffect :
    (host (.read 0xB7C 4) r0).pending = .read 0xB7C 4 :: [] ∧ offsetOf 0xB7C = regOffset (.coef 31) :=
  ⟨rfl, by decide⟩

theorem witness_WriteStoresOneRegisterAndIsNotYetLive :
    (host (.write 0x5FC 4 9) r0).pending = .write 0x5FC 4 9 :: [] ∧ offsetOf 0x5FC = regOffset (.constPtQ 63) ∧
    hostWritable (.constPtQ 63) = true ∧ Reg.constPtQ 63 ≠ .cmd ∧ Reg.constPtQ 63 ≠ .status :=
  ⟨rfl, by decide, by decide, by decide, by decide⟩

theorem witness_StatusIsWriteOneToClear :
    (host (.write 0x008 4 0xFFFFFFFF#32) r0).pending = .write 0x008 4 0xFFFFFFFF#32 :: [] ∧ offsetOf 0x008 = 0x008 :=
  ⟨rfl, by decide⟩

theorem witness_CommandsLeaveOperandsAndStagingAlone :
    ∃ t, exec .crConfig (idle (staged cfg1)) = .next t ∧ Instr.crConfig ≠ .coreReset := ⟨_, rfl, by decide⟩

theorem witness_UnitsShareNoState :
    (∃ t, exec .tedEval (idle (crOn cfg1)) = .next t) ∧ Instr.tedEval ∈ crCommands ∧
    (∃ t, exec .pllPush (idle (pllOn pcfg1)) = .next t) ∧ Instr.pllPush ∈ pllCommands :=
  ⟨⟨_, rfl⟩, by decide, ⟨_, rfl⟩, by decide⟩

theorem witness_LeafCommandsFrame :
    (∃ t, exec .itrpCoef (idle (crOn cfg1)) = .next t) ∧ (∃ t, exec .itrpEval (idle (crOn cfg1)) = .next t) ∧
    (∃ t, exec .tedEval (idle (crOn cfg1)) = .next t) ∧ (∃ t, exec .pedEval (idle (pllOn pcfg1)) = .next t) ∧
    (∃ t, exec .lfStep (idle (pllOn pcfg1)) = .next t) ∧ (∃ t, exec .ncoStep (idle (pllOn pcfg1)) = .next t) :=
  ⟨⟨_, rfl⟩, ⟨_, rfl⟩, ⟨_, rfl⟩, ⟨_, rfl⟩, ⟨_, rfl⟩, ⟨_, rfl⟩⟩

/-- `StatusLegal` and `ErrcodeLegal` at their bounds, and a step from there. -/
theorem witness_StatusAndErrcodeStayLegal :
    StatusLegal { r0 with status := 15, errcode := 14 } ∧ ErrcodeLegal { r0 with status := 15, errcode := 14 } ∧
    ∃ t, step (host (.read 0x010 4) { r0 with status := 15, errcode := 14 }) = .next t :=
  ⟨by unfold StatusLegal; decide, by unfold ErrcodeLegal; decide, _, rfl⟩

/-- A configured clock recovery unit is sound, and the next push is a step. -/
theorem witness_CrUnitStaysSound :
    CrSound binary32 (crOn cfg1) ∧ (crOn cfg1).cr.derived.cfgOk = 1 ∧
    ∃ t, step (host (cmdWrite (encode .crPush)) (crOn cfg1)) = .next t := by
  refine ⟨⟨.inr (by decide +kernel), fun _ => by decide +kernel, fun _ => rfl, fun _ => rfl,
    fun _ => by decide +kernel, fun _ => by decide +kernel, fun _ => by decide +kernel⟩, by decide +kernel, _, rfl⟩

theorem witness_PllUnitStaysSound :
    PllSound binary32 (pllOn pcfg1) ∧ (pllOn pcfg1).pll.cfgOk = 1 ∧
    ∃ t, step (host (cmdWrite (encode .pllPush)) (pllOn pcfg1)) = .next t := by
  refine ⟨⟨.inr (by decide +kernel), fun _ => by decide +kernel, fun _ => by decide +kernel⟩, by decide +kernel, _, rfl⟩

theorem witness_AccumulatorStaysNonnegative :
    AccSound (crOn cfg1) ∧ ∃ t, step (host (cmdWrite (encode .crPush)) (crOn cfg1)) = .next t :=
  ⟨⟨by decide +kernel, by decide +kernel, by decide +kernel, by decide +kernel, by decide +kernel⟩, _, rfl⟩

theorem witness_CrConfigCommits : crCheck binary32 (staged cfg1).crStage (staged cfg1).constM = none := by decide +kernel

theorem witness_PllConfigCommits :
    pllCheck binary32 (pllStaged pcfg1).pllStage (pllStaged pcfg1).constM = none ∧
    pllCheck binary32 (pllStaged pcfg2).pllStage (pllStaged pcfg2).constM = none := by decide +kernel

theorem witness_FailedCommitLeavesTheUnitUnconfigured :
    crCheck binary32 r0.crStage r0.constM = some .cfgWlen ∧ pllCheck binary32 r0.pllStage r0.constM = some .cfgPllOrder := by
  decide +kernel

/-- Each row of R151 is the first failed test somewhere, with the next row failing too, and the code is that row's;
then 0. The bounds are those of the table. -/
theorem witness_CommitReportsTheFirstFailingTest_cr :
    [{ cfg1 with kind := 4, ted := 3 }, { cfg1 with kind := 2, deg := 32, ted := 3 },
      { cfg1 with kind := 3, sincK := 4, sincNph := 257, sincFc := ⟨0x3F000000#32⟩, ted := 3 },
      { cfg1 with ted := 3, wlen := 1 }, { cfg1 with wlen := 1, slen := 2 }, { cfg1 with wlen := 65, slen := 9 },
      { cfg1 with slen := 2, osfIn := F32.zero }, { cfg1 with osfIn := ⟨0x3FFFFFFF#32⟩ },
      { cfg1 with tc := ⟨0x7F800000#32⟩ }, { cfg1 with osfIn := F32.zero }, cfg1].map
        (fun c => (after .crConfig (staged c)).errcode) = [5, 5, 5, 6, 7, 7, 8, 9, 9, 9, 0] ∧
    (after .crConfig { staged cfg3 with constM := 65 }).errcode = 10 ∧
    (after .crConfig { staged cfg3 with constM := 64 }).errcode = 0 := by decide +kernel

/-- The same for R221. -/
theorem witness_CommitReportsTheFirstFailingTest_pll :
    [{ pcfg1 with order := 3, ped := 2 }, { pcfg1 with ped := 2, outsel := 2 },
      { pcfg1 with outsel := 2, w0 := ⟨0x7F800000#32⟩ }, { pcfg1 with w0 := ⟨0x7F800000#32⟩ },
      { pcfg2 with alpha := ⟨0x7FC00000#32⟩ }, { pcfg1 with eta := ⟨0x7F800000#32⟩ },
      { pcfg1 with bl := ⟨0xFF800000#32⟩ }, { pcfg1 with alpha := ⟨0x7FC00000#32⟩ }].map
        (fun c => (after .pllConfig (pllStaged c)).errcode) = [11, 12, 13, 14, 14, 14, 14, 0] ∧
    (after .pllConfig { pllStaged { pcfg1 with ped := 1 } with constM := 0 }).errcode = 10 := by decide +kernel

/-- `tau` at both ends of its range, for the two commands. -/
theorem witness_ItrpCoefWritesTheTaps :
    (crOn cfg1).cr.derived.cfgOk = 1 ∧
    ∀ t ∈ [F32.zero, (⟨0x3F800000#32⟩ : F32)], f32Fin t = true ∧ f32Lt t F32.zero = false ∧ f32Lt ⟨0x3F800000#32⟩ t = false := by
  decide +kernel

theorem witness_ItrpEvalInterpolatesTheWindow :
    ({ crOn cfgSpline with opb := ⟨0x3F800000#32⟩ } : Regs F32).cr.derived.cfgOk = 1 ∧
    f32Fin ⟨0x3F800000#32⟩ = true ∧ f32Lt ⟨0x3F800000#32⟩ F32.zero = false ∧
    f32Lt ⟨0x3F800000#32⟩ ⟨0x3F800000#32⟩ = false := by decide +kernel

/-- Every kind, and both `SINC` clauses: phase 2 of 2 at `tau = 0.75`, and a `tau` above 1, which the check of a
command keeps out, for the bound. -/
theorem witness_TapsByKind :
    (crOn cfg1).cr.live.kind = 0 ∧ (crOn cfgSpline).cr.live.kind = 1 ∧ (crOn cfg4).cr.live.kind = 2 ∧
    3 ≤ (crOn cfg4).cr.live.deg.toNat ∧ (crOn cfgSinc).cr.live.kind = 3 ∧
    f32Lt (f32OfNat 2) (f32Floor (f32Add (f32Mul ⟨0x40000000#32⟩ (f32OfNat 2)) ⟨0x3F000000#32⟩)) = true ∧
    f32Lt (f32OfNat 2) (f32Floor (f32Add (f32Mul ⟨0x3F400000#32⟩ (f32OfNat 2)) ⟨0x3F000000#32⟩)) = false ∧
    f32ToNat? (f32Floor (f32Add (f32Mul ⟨0x3F400000#32⟩ (f32OfNat 2)) ⟨0x3F000000#32⟩)) = some 2 := by decide +kernel

/-- The three ways out of range: NaN, the largest value below 0, the smallest above 1. -/
theorem witness_TauOutOfRangeRaises :
    (crOn cfg1).cr.derived.cfgOk = 1 ∧ f32Fin ⟨0x7FC00000#32⟩ = false ∧ f32Lt ⟨0x80000001#32⟩ F32.zero = true ∧
    f32Lt ⟨0x3F800000#32⟩ ⟨0x3F800001#32⟩ = true := by decide +kernel

theorem witness_EmissionTauIsInRange :
    AccSound (crOn cfg1) ∧
    f32Lt ⟨0x3F800000#32⟩ (accGuard binary32 (takeSample binary32 (re32 0) (crOn cfg1))).cr.loop.acc = false :=
  ⟨witness_AccumulatorStaysNonnegative.1, by decide +kernel⟩

theorem witness_TedEvalComputesTheLiveKindsError :
    (crOn cfg1).cr.derived.cfgOk = 1 ∧ (crOn cfg1).cr.live.ted = 0 ∧ (crOn cfg3).cr.derived.cfgOk = 1 ∧
    (crOn cfg3).cr.live.ted = 1 ∧ (crOn cfg4).cr.derived.cfgOk = 1 ∧ (crOn cfg4).cr.live.ted = 2 := by decide +kernel

theorem witness_NearestPointIsClosestWithLowestIndex :
    1 ≤ 2 ∧ 2 ≤ 64 ∧
    ∀ i < 2, f32IsNaN (mag2 binary32 (subC binary32 (re32 0) (constPoint binary32 bpsk i))) = false := by decide +kernel

theorem witness_CrPushAwaitsAboveOne :
    (crOn { cfg1 with osfIn := ⟨0x41000000#32⟩ }).cr.derived.cfgOk = 1 ∧
    f32Lt ⟨0x3F800000#32⟩ (f32Sub (crOn { cfg1 with osfIn := ⟨0x41000000#32⟩ }).cr.loop.acc ⟨0x3F800000#32⟩) = true := by
  decide +kernel

/-- CFG-1 puts `CR_ACC` at 2: the next push's accumulator is 1, which is not above 1. -/
theorem witness_CrPushEmitsBetweenSymbols :
    (crOn cfg1).cr.derived.cfgOk = 1 ∧
    f32Lt (f32Sub (crOn cfg1).cr.loop.acc ⟨0x3F800000#32⟩) F32.zero = false ∧
    f32Lt ⟨0x3F800000#32⟩ (f32Sub (crOn cfg1).cr.loop.acc ⟨0x3F800000#32⟩) = false ∧
    ringNext (crOn cfg1).cr.loop.cnt (crOn cfg1).cr.derived.osfTed ≠ 0 := by decide +kernel

/-- CFG-3 puts `CR_ACC` at 0.5: the next push clamps at 0 and completes a symbol. -/
theorem witness_CrPushCompletesASymbol :
    (crOn cfg3).cr.derived.cfgOk = 1 ∧
    f32Lt (f32Sub (crOn cfg3).cr.loop.acc ⟨0x3F800000#32⟩) F32.zero = true ∧
    f32Lt ⟨0x3F800000#32⟩ F32.zero = false ∧
    ringNext (crOn cfg3).cr.loop.cnt (crOn cfg3).cr.derived.osfTed = 0 := by decide +kernel

theorem witness_CorrectionIsClamped :
    f32Fin cfg3.osfIn = true ∧ f32Le ⟨0x3F800000#32⟩ cfg3.osfIn = true := by decide +kernel

theorem witness_PedEvalComputesTheLiveModesError :
    (pllOn pcfg1).pll.cfgOk = 1 ∧ (pllOn pcfg1).pll.live.ped = 0 ∧
    (pllOn { pcfg1 with ped := 1 }).pll.cfgOk = 1 ∧ (pllOn { pcfg1 with ped := 1 }).pll.live.ped = 1 := by decide +kernel

theorem witness_LfStepUpdatesTheFilter :
    (pllOn pcfg2).pll.cfgOk = 1 ∧ (pllOn pcfg2).pll.live.order = 1 ∧
    (pllOn pcfg1).pll.cfgOk = 1 ∧ (pllOn pcfg1).pll.live.order = 2 := by decide +kernel

theorem witness_NcoStepAdvancesThePhase : (pllOn pcfg2).pll.cfgOk = 1 := by decide +kernel

theorem witness_PllPushTracksOneSample : (pllOn pcfg1).pll.cfgOk = 1 := by decide +kernel

/-- Two cores with one configuration and different loop states. -/
theorem witness_PllResetMakesStreamsRepeatable :
    let r1 := pllOn pcfg1
    let r2 := after .lfStep { pllOn pcfg1 with opb := ⟨0x3F800000#32⟩ }
    r1.pll.cfgOk = 1 ∧ r2.pll.cfgOk = 1 ∧ r1.pll.live = r2.pll.live ∧ r1.pll.gamma = r2.pll.gamma ∧
    r1.pll.rho = r2.pll.rho ∧ r1.pll.cm = r2.pll.cm ∧ r1.pll.cpt = r2.pll.cpt ∧ r1.pll.loop ≠ r2.pll.loop := by
  decide +kernel

/-- Finite operands with finite results, a divisor that is not 0, and the bound of overflow: the largest finite value
plus half a step is infinite, plus the value next below half a step it is not. -/
theorem witness_ArithmeticRoundsToNearestEven :
    f32Fin ⟨0x3F800001#32⟩ = true ∧ f32Fin ⟨0x33800000#32⟩ = true ∧ f32Fin ⟨0x3F800002#32⟩ = true ∧
    f32Fin (f32Add ⟨0x3F800001#32⟩ ⟨0x33800000#32⟩) = true ∧ f32Fin (f32Sub ⟨0x3F800001#32⟩ ⟨0x33800000#32⟩) = true ∧
    f32Fin (f32Mul ⟨0x3F800001#32⟩ ⟨0x33800000#32⟩) = true ∧ f32Fin (f32Div ⟨0x3F800001#32⟩ ⟨0x33800000#32⟩) = true ∧
    f32ToInt ⟨0x33800000#32⟩ ≠ 0 ∧
    f32Fin ⟨0x7F7FFFFF#32⟩ = true ∧ f32Add ⟨0x7F7FFFFF#32⟩ ⟨0x73000000#32⟩ = ⟨0x7F800000#32⟩ ∧
    f32Add ⟨0x7F7FFFFF#32⟩ ⟨0x72FFFFFF#32⟩ = ⟨0x7F7FFFFF#32⟩ ∧
    f32Sub ⟨0xFF7FFFFF#32⟩ ⟨0x73000000#32⟩ = ⟨0xFF800000#32⟩ := by decide +kernel

/-! ### The exact domain -/

/-- CFG-1 with `OSF_in = 4`, over the reals. -/
noncomputable def cfgR : CrConf ℝ := { CrConf.zeroed 0 with wlen := 2, slen := 3, osfIn := 4, tc := 5 }

/-- The registers after its commit, over the reals. -/
noncomputable def crOnR : Regs ℝ :=
  { Regs.zeroed 0 with cr := crCommit exact { Regs.zeroed 0 with crStage := cfgR } }

/-- Order 1, `alpha 0.5`, over the reals. -/
noncomputable def pllOnR : Regs ℝ :=
  { Regs.zeroed 0 with pll := pllCommit exact { Regs.zeroed 0 with pllStage :=
      { PllConf.zeroed 0 with order := 1, alpha := 1 / 2 } } }

theorem test_cfgR_admitted : crCheck exact cfgR 0 = none := by
  have hlt : ∀ a b : ℝ, ¬ a < b → exact.lt a b = false := fun a b h => decide_eq_false h
  have hle : ∀ a b : ℝ, ¬ a ≤ b → exact.le a b = false := fun a b h => decide_eq_false h
  have h1 : itrpConfBad exact cfgR = false := rfl
  have h2 : loopConfBad exact cfgR = false := by
    have ho : tedOsf cfgR = 2 := rfl
    simp only [loopConfBad, ho, exact_fin, zeroOf_exact, oneOf_exact, exact_div, exact_ofNat]
    rw [hle cfgR.osfIn 0 (by norm_num [cfgR]), hle cfgR.tc 0 (by norm_num [cfgR]), hlt _ _ (by norm_num [cfgR])]
    rfl
  unfold crCheck
  rw [h1, h2]
  rfl

theorem test_crOnR_sound : CrSound exact crOnR ∧ crOnR.cr.derived.cfgOk = 1 :=
  ⟨⟨.inr rfl, fun _ => test_cfgR_admitted, fun _ => rfl, fun _ => rfl, fun _ => by decide, fun _ => by decide,
    fun _ => by decide⟩, rfl⟩

/-- A row of ITRP-7's table, phase 0: `(0, 0, 1, 0)` before the normalisation. -/
theorem test_sincRaw_phase0 : ∀ j < 4, sincRaw exact 4 2 (1 / 2) 0 j = if j = 2 then 1 else 0 := by
  have hs : ∀ u : ℝ, Real.sin (Real.pi * u) = 0 → u ≠ 0 → sincU exact u = 0 := by
    intro u h hu
    simp [sincU, h, hu]
  intro j hj
  have hx : exact.sub (exact.ofNat j) (exact.add (exact.ofNat 2) (exact.div (exact.ofNat 0) (exact.ofNat 2))) =
      (j : ℝ) - 2 := by simp
  have hf : exact.mul (exact.ofNat 2) (1 / 2) = 1 := by norm_num
  unfold sincRaw
  simp only [show (4 / 2 : Nat) = 2 from rfl, hx, hf, exact_mul, one_mul]
  interval_cases j
  · rw [hs _ (by rw [show Real.pi * ((0 : ℕ) - 2 : ℝ) = ((-2 : ℤ) : ℝ) * Real.pi by push_cast; ring]; exact Real.sin_int_mul_pi _) (by norm_num)]
    simp
  · rw [hs _ (by rw [show Real.pi * ((1 : ℕ) - 2 : ℝ) = ((-1 : ℤ) : ℝ) * Real.pi by push_cast; ring]; exact Real.sin_int_mul_pi _) (by norm_num)]
    simp
  · simp [sincU, hann]; norm_num
  · rw [hs _ (by rw [show Real.pi * ((3 : ℕ) - 2 : ℝ) = ((1 : ℤ) : ℝ) * Real.pi by push_cast; ring]; exact Real.sin_int_mul_pi _) (by norm_num)]
    simp

/-- A legal `tau` for `LINEAR`, the largest degree of `LAGRANGE`, and a phase whose sum is not 0. -/
theorem witness_ExactTapsSumToOne :
    crOnR.cr.live.kind.toNat ≤ 2 ∧ (0 : ℝ) ≤ 1 ∧ (1 : ℝ) ≤ 1 ∧ ¬ crOnR.cr.live.kind = 2 ∧
    ({ cfgR with kind := 2, deg := 31 } : CrConf ℝ).kind.toNat ≤ 2 ∧
    1 ≤ ({ cfgR with kind := 2, deg := 31 } : CrConf ℝ).deg.toNat ∧
    ({ cfgR with kind := 2, deg := 31 } : CrConf ℝ).deg.toNat ≤ 31 ∧
    4 ≤ 32 ∧ sumTo exact 4 (sincRaw exact 4 2 (1 / 2) 0) ≠ 0 := by
  refine ⟨by decide, zero_le_one, le_refl _, by decide, by decide, by decide, by decide, by decide, ?_⟩
  rw [sumTo_exact, Finset.sum_congr rfl fun j hj => test_sincRaw_phase0 j (Finset.mem_range.1 hj)]
  simp

/-- `SINC` with 4 taps, 2 phases and `FC = 0.5`, over the reals. -/
noncomputable def cfgSincR : CrConf ℝ := { cfgR with kind := 3, sincK := 4, sincNph := 2, sincFc := 1 / 2 }

/-- A `LINEAR` unit, the largest degree of `LAGRANGE`, and a `SINC` unit with its phase table. -/
theorem witness_ExactTapsInterpolateAtTheEnds :
    (crOnR.cr.live.kind.toNat ≤ 3 ∧ ¬ crOnR.cr.live.kind = 2 ∧ ¬ crOnR.cr.live.kind = 3 ∧ 1 < tapCount crOnR.cr.live) ∧
    (let c : CrConf ℝ := { cfgR with kind := 2, deg := 31 }
     c.kind.toNat ≤ 3 ∧ 1 ≤ c.deg.toNat ∧ c.deg.toNat ≤ 31 ∧ ¬ c.kind = 3 ∧ 31 < tapCount c) ∧
    (let cr : CrUnit ℝ := { crOnR.cr with live := cfgSincR, tab := phaseTable exact cfgSincR }
     cr.live.kind.toNat ≤ 3 ∧ ¬ cr.live.kind = 2 ∧ cr.tab = phaseTable exact cr.live ∧ cr.live.sincFc = 1 / 2 ∧
       cr.live.sincK.toNat % 2 = 0 ∧ 4 ≤ cr.live.sincK.toNat ∧ cr.live.sincK.toNat ≤ 32 ∧
       1 ≤ cr.live.sincNph.toNat ∧ cr.live.sincNph.toNat ≤ 256 ∧ 3 < tapCount cr.live) := by
  refine ⟨⟨by decide, by decide, by decide, by decide⟩, ⟨by decide, by decide, by decide, by decide, by decide⟩,
    by decide, by decide, rfl, rfl, by decide, by decide, by decide, by decide, by decide, by decide⟩

theorem witness_ExactLoopGainBounds : (0 : ℝ) < 4 ∧ (0 : ℝ) < 5 := by norm_num

/-- `alpha` at both ends of its range is admitted, too. -/
theorem witness_ExactFirstOrderStepResponse :
    pllOnR.pll.live.order = 1 ∧ pllOnR.pll.loop.theta = 0 ∧ 0 ≤ pllOnR.pll.live.alpha ∧ pllOnR.pll.live.alpha ≤ 2 := by
  refine ⟨rfl, zeroOf_exact, ?_, ?_⟩ <;> norm_num [pllOnR, pllCommit, pllUnitReset]

theorem witness_ExactPhaseTracking : pllOnR.pll.cfgOk = 1 ∧ pllOnR.pll.live.w0 = 0 := ⟨rfl, rfl⟩

/-- `OSF_in = 4` with `GARDNER` meets R163's condition with equality. -/
theorem witness_ExactAccumulatorNeverClamps :
    CrSound exact crOnR ∧ crOnR.cr.derived.cfgOk = 1 ∧ 2 ≤ crOnR.cr.live.osfIn ∧
    1 ≤ crOnR.cr.live.osfIn * (1 / (tedOsf crOnR.cr.live : ℝ) - 1 / 4) ∧
    crOnR.cr.loop.acc = crOnR.cr.live.osfIn / 2 := by
  have ho : crOnR.cr.live.osfIn = 4 := rfl
  have ht : tedOsf crOnR.cr.live = 2 := rfl
  refine ⟨test_crOnR_sound.1, test_crOnR_sound.2, ?_, ?_, ?_⟩
  · rw [ho]; norm_num
  · rw [ho, ht]; norm_num
  · rw [ho]
    show (4 : ℝ) * (1 / 2) = 4 / 2
    norm_num

/-- The same core, and the bounds of the number of pushes. -/
theorem witness_ExactOutputCount :
    CrSound exact crOnR ∧ crOnR.cr.derived.cfgOk = 1 ∧ 2 ≤ crOnR.cr.live.osfIn ∧
    1 ≤ crOnR.cr.live.osfIn * (1 / (tedOsf crOnR.cr.live : ℝ) - 1 / 4) ∧ 1 ≤ 1 ∧ 1 < 2 ^ 32 :=
  ⟨witness_ExactAccumulatorNeverClamps.1, witness_ExactAccumulatorNeverClamps.2.1,
    witness_ExactAccumulatorNeverClamps.2.2.1, witness_ExactAccumulatorNeverClamps.2.2.2.1, by decide, by decide⟩

end Sys2Proof.Tests
end

section
/-! The numeric domains (00_scope.md R9, R11): `wrap_pi` over the reals, and rounding to nearest, ties to even, of
the four operations of binary32. -/

namespace Sys2Proof.Machine

/-! ### `wrap_pi` over the reals -/

/-- The number of turns that `wrap_pi` takes off is the one that leaves an angle in `[-PI, PI)`. -/
theorem wrapPi_exact_bounds (p : ℝ) : -Real.pi ≤ wrapPi exact p ∧ wrapPi exact p < Real.pi := by
  have hpi : 0 < 2 * Real.pi := Real.two_pi_pos
  have hlo := (le_div_iff₀ hpi).1 (Int.floor_le ((p + Real.pi) / (2 * Real.pi)))
  have hhi := (div_lt_iff₀ hpi).1 (Int.lt_floor_add_one ((p + Real.pi) / (2 * Real.pi)))
  rw [wrapPi_exact]
  constructor <;> linarith

/-- Settles O54: the bounds above, and the floor in the formula is the number of turns. -/
theorem exactWrapPiIsTheHalfOpenInterval : Obligations.ExactWrapPiIsTheHalfOpenInterval :=
  fun p => ⟨(wrapPi_exact_bounds p).1, (wrapPi_exact_bounds p).2, _, wrapPi_exact p⟩

/-! ### Signed magnitudes -/

/-- A magnitude with a sign. -/
def withSign (neg : Bool) (m : Nat) : Int := if neg then -(m : Int) else (m : Int)

/-- A value is its magnitude with its sign. -/
theorem f32ToInt_eq_withSign (x : F32) : f32ToInt x = withSign (f32Sign x) (f32Mag x) := rfl

@[simp] theorem withSign_false (m : Nat) : withSign false m = m := rfl

@[simp] theorem withSign_true (m : Nat) : withSign true m = -m := rfl

@[simp] theorem withSign_not (neg : Bool) (m : Nat) : withSign (!neg) m = -withSign neg m := by
  cases neg <;> simp

@[simp] theorem withSign_zero (neg : Bool) : withSign neg 0 = 0 := by
  cases neg <;> simp

@[simp] theorem abs_withSign (neg : Bool) (m : Nat) : |withSign neg m| = m := by
  cases neg <;> simp

theorem withSign_le (neg : Bool) (m : Nat) : withSign neg m ≤ m := by
  cases neg <;> simp

/-- A positive factor passes through the sign. -/
theorem withSign_mul_right (neg : Bool) (m n : Nat) : withSign neg (m * n) = withSign neg m * n := by
  cases neg <;> simp

/-- Signs multiply as exclusive or. -/
theorem withSign_mul (p q : Bool) (m n : Nat) : withSign p m * withSign q n = withSign (p != q) (m * n) := by
  cases p <;> cases q <;> simp

/-- An integer is its magnitude with its sign. -/
theorem withSign_natAbs (z : Int) : withSign (decide (z < 0)) z.natAbs = z := by
  rcases lt_or_ge z 0 with h | h
  · rw [decide_eq_true h, withSign_true]; omega
  · rw [decide_eq_false (not_lt.2 h), withSign_false]; omega

/-! ### The operations on finite values -/

/-- A zero is the rounding of 0. -/
theorem f32Zero_eq_f32Round (neg : Bool) : f32Zero neg = f32Round neg 0 1 := by cases neg <;> decide

/-- An addition of finite values is the finite sum, whatever names the NaN. -/
theorem f32AddAs_of_fin (src : Config.NanSource) {a b : F32} (x : F32) (ha : f32Fin a = true)
    (hb : f32Fin b = true) : f32AddAs src a b x = f32AddFin a b := by
  simp [f32AddAs, f32IsNaN_of_fin ha, f32IsNaN_of_fin hb, f32IsInf_of_fin ha, f32IsInf_of_fin hb]

/-- A product of finite values is one rounding. -/
theorem f32Mul_of_fin {a b : F32} (ha : f32Fin a = true) (hb : f32Fin b = true) :
    f32Mul a b = f32Round (f32Sign a != f32Sign b) (f32Mag a * f32Mag b) f32Unit := by
  simp [f32Mul, f32IsNaN_of_fin ha, f32IsNaN_of_fin hb, f32IsInf_of_fin ha, f32IsInf_of_fin hb]

/-- A quotient of finite values is one rounding, unless the divisor is a zero. -/
theorem f32Div_of_fin {a b : F32} (ha : f32Fin a = true) (hb : f32Fin b = true) (h0 : f32Mag b ≠ 0) :
    f32Div a b = f32Round (f32Sign a != f32Sign b) (f32Mag a * f32Unit) (f32Mag b) := by
  simp [f32Div, f32IsNaN_of_fin ha, f32IsNaN_of_fin hb, f32IsInf_of_fin ha, f32IsInf_of_fin hb, h0]

/-! ### Rounding to nearest, ties to even -/

/-- Against the candidate `z`, the choice `r` for the quotient `e / t` is at least as near, and its significand
`frac` is even when another `z` is equally near. Distances are scaled by the divisor `t`. -/
def NearestEven (frac : Nat) (r e t z : Int) : Prop :=
  |r * t - e| ≤ |z * t - e| ∧ (|r * t - e| = |z * t - e| → z ≠ r → frac % 2 = 0)

/-- The value `r` is the rounding of `e / t` (R9): below the bound of overflow the nearest finite value with ties to an
even fraction, else the infinity of the quotient's sign. -/
def RoundsTo (r : F32) (e t : Int) : Prop :=
  (f32Fin r = true ↔ |e| < (2 ^ 25 - 1) * 2 ^ 252 * |t|) ∧
  (f32Fin r = false → r = if e * t < 0 then ⟨0xFF800000#32⟩ else ⟨0x7F800000#32⟩) ∧
  (f32Fin r = true → ∀ c : F32, f32Fin c = true → NearestEven (f32Frac r) (f32ToInt r) e t (f32ToInt c))

/-- Only the last bit of the significand matters. -/
theorem NearestEven.congr_frac {m m' : Nat} {r e t z : Int} (hm : m' % 2 = m % 2) (h : NearestEven m r e t z) :
    NearestEven m' r e t z := ⟨h.1, fun htie hne => hm.trans (h.2 htie hne)⟩

/-- Nearness does not see a change of the sign of dividend, choice and candidate. -/
theorem nearestEven_neg_iff (m : Nat) (r e t z : Int) : NearestEven m (-r) (-e) t (-z) ↔ NearestEven m r e t z := by
  have hdist : ∀ x : Int, |-x * t - -e| = |x * t - e| := fun x => by
    rw [← abs_neg]; congr 1; ring
  simp only [NearestEven, hdist, ne_eq, neg_inj]

/-- A quotient whose dividend and divisor both change sign rounds to the same value. -/
theorem RoundsTo.neg_neg {r : F32} {e t : Int} (h : RoundsTo r e t) : RoundsTo r (-e) (-t) := by
  have hdist : ∀ x : Int, |x * -t - -e| = |x * t - e| := fun x => by
    rw [← abs_neg]; congr 1; ring
  simpa only [RoundsTo, NearestEven, hdist, abs_neg, neg_mul_neg] using h

/-- The rounded quotient of naturals is the nearest integer, with ties to even. -/
theorem nearestEven_roundNearestEven (n : Nat) {u : Nat} (hu : 0 < u) (j : Int) :
    NearestEven (roundNearestEven n u) (roundNearestEven n u) n u j := by
  have hdiv : (u : Int) * (n / u : Nat) + (n % u : Nat) = n := mod_cast Nat.div_add_mod n u
  have hrem := Nat.mod_lt n hu
  obtain ⟨k, rfl⟩ : ∃ k : Int, j = (n / u : Nat) + k := ⟨j - (n / u : Nat), by ring⟩
  have hfloor : ((n / u : Nat) : Int) * u - n = -(n % u : Nat) := by rw [← hdiv]; ring
  have hcand : (((n / u : Nat) : Int) + k) * u - n = k * u - (n % u : Nat) := by rw [← hdiv]; ring
  have hceil : (((n / u : Nat) : Int) + 1) * u - n = u - (n % u : Nat) := by rw [← hdiv]; ring
  have hfar : (k = 0 ∧ k * u = 0) ∨ k * u ≤ -u ∨ (k = 1 ∧ k * u = u) ∨ (u : Int) < k * u := by
    rcases (by omega : k = 0 ∨ k ≤ -1 ∨ k = 1 ∨ 2 ≤ k) with rfl | hk | rfl | hk
    · exact .inl (by simp)
    · exact .inr (.inl (by nlinarith))
    · exact .inr (.inr (.inl (by simp)))
    · exact .inr (.inr (.inr (by nlinarith)))
  unfold NearestEven roundNearestEven
  rw [hcand]
  generalize n / u = q at *
  generalize n % u = r at *
  generalize k * u = w at *
  split
  case isTrue hdown =>
    rw [hfloor, abs_neg, Nat.abs_cast]
    rcases abs_cases (w - r) with ⟨hw, hside⟩ | ⟨hw, hside⟩ <;> rw [hw] <;> omega
  case isFalse hup =>
    rw [Nat.cast_succ, hceil, abs_of_pos (by omega)]
    rcases abs_cases (w - r) with ⟨hw, hside⟩ | ⟨hw, hside⟩ <;> rw [hw] <;> omega

/-- Every value is a whole number of steps `2 ^ s`, or too small to need the step `s` that is above 0. -/
theorem f32ToInt_grid (x : F32) (s : Nat) :
    (∃ j : Int, f32ToInt x = j * 2 ^ s) ∨ (0 < s ∧ f32ToInt x < 2 ^ 23 * 2 ^ s) := by
  obtain ⟨m, k, hmag, hm, -⟩ := f32Mag_form x
  rw [f32ToInt_eq_withSign, hmag]
  rcases Nat.lt_or_ge k s with hks | hks
  case inr =>
    have hpow : m * 2 ^ k = m * 2 ^ (k - s) * 2 ^ s := by rw [mul_assoc, ← pow_add, Nat.sub_add_cancel hks]
    exact .inl ⟨withSign (f32Sign x) (m * 2 ^ (k - s)), by rw [hpow, withSign_mul_right]; norm_cast⟩
  case inl =>
    have hlt : m * 2 ^ k < 2 ^ 23 * 2 ^ s := by
      calc m * 2 ^ k < 2 ^ 24 * 2 ^ k := by gcongr
        _ = 2 ^ 23 * 2 ^ (k + 1) := by ring
        _ ≤ 2 ^ 23 * 2 ^ s := by gcongr <;> omega
    exact .inr ⟨by omega, (withSign_le _ _).trans_lt (mod_cast hlt)⟩

/-- The quotient rounded in its own step is the nearest of all values: those off the grid of the step lie below
`2 ^ 23` steps, which the quotient does not. -/
theorem nearestEven_roundStep (n : Nat) {d : Nat} (hd : 0 < d) (c : F32) :
    NearestEven (roundNearestEven n (d * 2 ^ roundStep n d))
      (roundNearestEven n (d * 2 ^ roundStep n d) * 2 ^ roundStep n d : Nat) n d (f32ToInt c) := by
  have hgrid := f32ToInt_grid c (roundStep n d)
  have hquot := le_quotient n d
  generalize roundStep n d = s at *
  have hu : 0 < d * 2 ^ s := by positivity
  have hnear := nearestEven_roundNearestEven n hu
  have hscale : ∀ j : Int, j * (d * 2 ^ s : Nat) = j * 2 ^ s * d := fun j => by push_cast; ring
  simp only [NearestEven, hscale] at hnear
  rw [Nat.cast_mul, Nat.cast_pow, Nat.cast_ofNat]
  rcases hgrid with ⟨j, hj⟩ | ⟨hs, hsmall⟩
  case inl =>
    rw [hj]
    exact ⟨(hnear j).1, fun htie hne => (hnear j).2 htie (fun h => hne (by rw [h]))⟩
  case inr =>
    have hn := (Nat.le_div_iff_mul_le hu).1 (hquot hs)
    have hn : (2 : Int) ^ 23 * 2 ^ s * d ≤ n := by rw [← hscale]; exact_mod_cast hn
    have hc : f32ToInt c * d < 2 ^ 23 * 2 ^ s * d := mul_lt_mul_of_pos_right hsmall (mod_cast hd)
    have hlt := calc
      _ ≤ |(2 : Int) ^ 23 * 2 ^ s * d - n| := (hnear (2 ^ 23)).1
      _ = n - 2 ^ 23 * 2 ^ s * d := by rw [abs_of_nonpos (by linarith)]; ring
      _ < n - f32ToInt c * d := by linarith
      _ = |f32ToInt c * d - n| := by rw [abs_of_neg (by linarith)]; ring
    exact ⟨hlt.le, fun htie => absurd htie hlt.ne⟩

/-- The last bit of the fraction of a finite rounding is that of the rounded quotient. -/
theorem f32Frac_round_mod_two (neg : Bool) (n d : Nat) (h : roundMag n d < infMag) :
    f32Frac (f32Round neg n d) % 2 = roundNearestEven n (d * 2 ^ roundStep n d) % 2 := by
  rw [f32Round, f32Frac_pack]
  unfold roundMag at h ⊢
  omega

/-- The rounding of a signed quotient is nearest among all values, with ties to even. -/
theorem nearestEven_f32Round (neg : Bool) (n : Nat) {d : Nat} (hd : 0 < d) (hfin : f32Fin (f32Round neg n d) = true)
    (c : F32) :
    NearestEven (f32Frac (f32Round neg n d)) (f32ToInt (f32Round neg n d)) (withSign neg n) d (f32ToInt c) := by
  have hlt : roundMag n d < infMag := by
    refine lt_of_le_of_ne (roundMag_le n d) fun h => ?_
    have := (roundMag_eq_infMag_iff n d hd).1 h
    have := (f32Fin_round_iff neg n d hd).1 hfin
    omega
  refine NearestEven.congr_frac (f32Frac_round_mod_two neg n d hlt) ?_
  rw [f32ToInt_eq_withSign (f32Round neg n d), f32Sign_round, f32Mag_round neg n d hlt]
  cases neg
  case false => exact nearestEven_roundStep n hd c
  case true =>
    have h := nearestEven_roundStep n hd (f32Neg c)
    rw [f32ToInt_neg] at h
    rw [← nearestEven_neg_iff]
    simpa using h

/-- `f32Round` rounds the signed quotient it is given. -/
theorem roundsTo_f32Round (neg : Bool) (n : Nat) {d : Nat} (hd : 0 < d) :
    RoundsTo (f32Round neg n d) (withSign neg n) d := by
  refine ⟨?_, fun hinf => ?_, fun hfin c _ => nearestEven_f32Round neg n hd hfin c⟩
  · rw [f32Fin_round_iff neg n d hd, abs_withSign, Nat.abs_cast, ← Int.ofNat_lt]
    norm_num
  · have hn : 0 < n := by
      by_contra h0
      have := (f32Fin_round_iff neg n d hd).2 (by rw [Nat.eq_zero_of_not_pos h0]; positivity)
      rw [hinf] at this
      contradiction
    have hpos : (0 : Int) < n * d := mod_cast Nat.mul_pos hn hd
    rw [f32Round_of_overflow neg n d hinf]
    cases neg
    · simp [not_lt.2 hpos.le]
    · simp [hpos]

/-! ### The four operations -/

/-- A sum of finite values rounds the exact sum; the operand `x` only names a NaN. -/
theorem roundsTo_f32AddAs (src : Config.NanSource) {a b : F32} (x : F32) (ha : f32Fin a = true)
    (hb : f32Fin b = true) : RoundsTo (f32AddAs src a b x) (f32ToInt a + f32ToInt b) 1 := by
  rw [f32AddAs_of_fin src x ha hb, f32AddFin]
  split
  case isTrue hzero =>
    rw [hzero, f32Zero_eq_f32Round]
    simpa only [withSign_zero, Nat.cast_one] using roundsTo_f32Round (f32Sign a && f32Sign b) 0 Nat.one_pos
  case isFalse =>
    simpa only [withSign_natAbs, Nat.cast_one] using
      roundsTo_f32Round (f32ToInt a + f32ToInt b < 0) (f32ToInt a + f32ToInt b).natAbs Nat.one_pos

/-- A product of finite values rounds the exact product. -/
theorem roundsTo_f32Mul {a b : F32} (ha : f32Fin a = true) (hb : f32Fin b = true) :
    RoundsTo (f32Mul a b) (f32ToInt a * f32ToInt b) (2 ^ 149) := by
  rw [f32Mul_of_fin ha hb, f32ToInt_eq_withSign a, f32ToInt_eq_withSign b, withSign_mul]
  exact roundsTo_f32Round _ _ (d := f32Unit) (by norm_num [f32Unit])

/-- A quotient of finite values rounds the exact quotient, when the divisor is not zero. -/
theorem roundsTo_f32Div {a b : F32} (ha : f32Fin a = true) (hb : f32Fin b = true) (h0 : f32ToInt b ≠ 0) :
    RoundsTo (f32Div a b) (f32ToInt a * 2 ^ 149) (f32ToInt b) := by
  have hmag : f32Mag b ≠ 0 := fun h => h0 (by simp [f32ToInt_eq_withSign, h])
  have hunit : f32ToInt a * 2 ^ 149 = withSign (f32Sign a) (f32Mag a * f32Unit) :=
    (withSign_mul_right (f32Sign a) (f32Mag a) f32Unit).symm
  have hround := roundsTo_f32Round (f32Sign a != f32Sign b) (f32Mag a * f32Unit) (Nat.pos_of_ne_zero hmag)
  rw [f32Div_of_fin ha hb hmag, hunit, f32ToInt_eq_withSign b]
  cases hs : f32Sign b <;> rw [hs] at hround
  case false => simpa only [Bool.bne_false, withSign_false] using hround
  case true => simpa only [Bool.bne_true, withSign_not, withSign_true, neg_neg] using hround.neg_neg

/-- Settles O51: each operation is one rounding of the exact result. -/
theorem arithmeticRoundsToNearestEven : Obligations.ArithmeticRoundsToNearestEven := by
  intro a b ha hb
  refine ⟨roundsTo_f32AddAs .add b ha hb, ?_, roundsTo_f32Mul ha hb, roundsTo_f32Div ha hb⟩
  have hsub := roundsTo_f32AddAs .sub b ha ((f32Fin_neg b).trans hb)
  rwa [f32ToInt_neg, ← sub_eq_add_neg] at hsub

end Sys2Proof.Machine
end

section
/-! The state (10_state.md): the register map and the accesses it admits, reset, what no command touches, the flags, and
the invariants of `STATUS`, `ERRCODE` and the phase accumulator. -/

namespace Sys2Proof.Machine

/-! ### The register map -/

/-- The decoder of one array finds exactly the starts of its elements. -/
theorem elemAt_eq_some_iff {lo stride n off : Nat} (hs : 0 < stride) (i : Fin n) :
    elemAt lo stride n off = some i ↔ off = lo + stride * i.val := by
  unfold elemAt
  split
  case isTrue h =>
    obtain ⟨hlo, hmod, -⟩ := h
    have hoff : off = lo + stride * ((off - lo) / stride) := by
      have := Nat.div_add_mod (off - lo) stride
      omega
    rw [Option.some.injEq, Fin.ext_iff]
    constructor
    · intro h
      rwa [← h]
    · intro h
      simp [h, Nat.mul_div_cancel_left _ hs]
  case isFalse h =>
    refine iff_of_false (by simp) fun hoff => h ?_
    simp [hoff, Nat.mul_div_cancel_left _ hs]

/-- The decoder of one array finds every element at its start. -/
theorem elemAt_start {lo stride n : Nat} (i : Fin n) (hs : 0 < stride) :
    elemAt lo stride n (lo + stride * i.val) = some i := (elemAt_eq_some_iff hs i).2 rfl

/-- The decoder of one array finds nothing at any other offset. -/
theorem elemAt_eq_none {lo stride n off : Nat} (hs : 0 < stride) (h : ∀ i < n, off ≠ lo + stride * i) :
    elemAt lo stride n off = none :=
  Option.eq_none_iff_forall_ne_some.2 fun i hi => h i.val i.isLt ((elemAt_eq_some_iff hs i).1 hi)

/-- What the decoder of one array finds is at its offset. -/
theorem regOffset_of_elemAt {lo stride n off : Nat} {mk : Fin n → Reg} {x : Reg} (hs : 0 < stride)
    (hmk : ∀ i, regOffset (mk i) = lo + stride * i.val) (h : (elemAt lo stride n off).map mk = some x) :
    regOffset x = off := by
  obtain ⟨i, hi, rfl⟩ := Option.map_eq_some_iff.1 h
  rw [hmk, (elemAt_eq_some_iff hs i).1 hi]

/-- What the decoder of the arrays finds is at its offset. -/
theorem regOffset_of_arrayAt {off : Nat} {x : Reg} (h : arrayAt off = some x) : regOffset x = off := by
  simp only [arrayAt, Option.orElse_eq_orElse, Option.orElse_eq_or, Option.or_eq_some_iff] at h
  rcases h with h | ⟨-, h | ⟨-, h | ⟨-, h | ⟨-, h | ⟨-, h | ⟨-, h⟩⟩⟩⟩⟩⟩
  all_goals exact regOffset_of_elemAt (by decide) (fun _ => rfl) h

/-- The arrays lie above the other registers. -/
theorem regAt_eq_arrayAt {off : Nat} (h : 0x400 ≤ off) : regAt off = arrayAt off := by
  unfold regAt
  split
  case h_61 => rfl
  all_goals omega

/-- What the decoder finds is at its offset. -/
theorem regOffset_of_regAt {off : Nat} {x : Reg} (h : regAt off = some x) : regOffset x = off := by
  unfold regAt at h
  split at h
  case h_61 => exact regOffset_of_arrayAt h
  all_goals
    injection h with h
    subst h
    rfl

/-- The decoder finds every register at its offset: no other array reaches there. -/
theorem regAt_regOffset (x : Reg) : regAt (regOffset x) = some x := by
  cases x
  case constPtI i | constPtQ i | crWI i | crWQ i | crSI i | crSQ i | coef i =>
    have hi := i.isLt
    rw [regAt_eq_arrayAt (by simp only [regOffset]; omega)]
    dsimp only [arrayAt, regOffset, Config.maxM, Config.maxWlen, Config.maxSlen, Config.maxK] at hi ⊢
    simp (disch := (intros; omega)) only [elemAt_start, elemAt_eq_none]
    rfl
  all_goals rfl

/-- Offsets are aligned and lie in the window. -/
theorem regOffset_bounds (x : Reg) : regOffset x % 4 = 0 ∧ regOffset x < 4096 := by
  cases x
  case constPtI i | constPtQ i | crWI i | crWQ i | crSI i | crSQ i | coef i =>
    have hi := i.isLt
    dsimp only [regOffset, Config.maxM, Config.maxWlen, Config.maxSlen, Config.maxK] at hi ⊢
    omega
  all_goals decide

/-- The offsets that the map marks RW, R/W1C or WO. -/
theorem hostWritable_iff (x : Reg) :
    hostWritable x = true ↔
      (0x008 ≤ regOffset x ∧ regOffset x ≤ 0x00C) ∨ (0x020 ≤ regOffset x ∧ regOffset x ≤ 0x028) ∨
      (0x100 ≤ regOffset x ∧ regOffset x ≤ 0x124) ∨ (0x200 ≤ regOffset x ∧ regOffset x ≤ 0x218) ∨
      regOffset x = 0x300 ∨ (0x400 ≤ regOffset x ∧ regOffset x ≤ 0x5FC) := by
  cases x
  case constPtI i | constPtQ i =>
    have hi := i.isLt
    dsimp only [Config.maxM] at hi
    simp only [hostWritable, regOffset, true_iff]
    omega
  case crWI i | crWQ i | crSI i | crSQ i | coef i =>
    simp only [hostWritable, regOffset, Bool.false_eq_true, false_iff]
    omega
  all_goals decide

/-- Settles O15: the map written out, and the decoder as its inverse. -/
theorem registerMapIsOneToOne : Obligations.RegisterMapIsOneToOne :=
  ⟨rfl, rfl, rfl, rfl, rfl, fun _ => ⟨rfl, rfl, rfl, rfl⟩, fun _ => ⟨rfl, rfl⟩, fun _ => rfl,
    fun x => ⟨regAt_regOffset x, regOffset_bounds x⟩, fun _ _ => regOffset_of_regAt, hostWritable_iff⟩

/-! ### Serving one access -/

/-- A word access at a register's offset reaches that register (R61, R62). -/
theorem accessed_of_offset {addr : Nat} {x : Reg} (h : offsetOf addr = regOffset x) : accessed addr 4 = some x := by
  rw [accessed, h, if_pos ⟨rfl, (regOffset_bounds x).1⟩, regAt_regOffset]

/-- A write to `CMD` hands its word to the decoder. -/
theorem serve_write_cmd (r : Regs F32) {addr : Nat} (w : Word) (h : offsetOf addr = regOffset .cmd) :
    serve r (.write addr 4 w) = .command w := by
  simp [serve, accessed_of_offset h]

/-- A write to another register that a host may write leaves what `storeReg` says. -/
theorem serve_write_reg {r t : Regs F32} {addr : Nat} {x : Reg} {v : Word} (h : offsetOf addr = regOffset x)
    (hx : x ≠ .cmd) (hstore : storeReg r x v = some t) : serve r (.write addr 4 v) = .access t none := by
  simp [serve, busWrite, accessed_of_offset h, hx, hstore]

/-- A step that serves an access. -/
theorem step_of_access {s : State} {x : HostTxn} {rest : List HostTxn} {r : Regs F32} {reply : Option Word}
    (hp : s.pending = x :: rest) (h : serve s.regs x = .access r reply) :
    step s = .next { regs := r, pending := rest, reply := reply } := by
  simp [step, hp, h]

/-- A step that serves a command. -/
theorem step_of_command {s : State} {x : HostTxn} {rest : List HostTxn} {w : Word} {i : Instr}
    (hp : s.pending = x :: rest) (h : serve s.regs x = .command w) (hw : decode w = .ok i) :
    step s = exec i { s with pending := rest, reply := none } := by
  simp [step, hp, h, hw]

/-- Settles O3: the offset of `CMD` hands the word to the decoder. -/
theorem stepExecutesTheDecodedCommand : Obligations.StepExecutesTheDecodedCommand :=
  fun _ _ _ w _ hp haddr hw => step_of_command hp (serve_write_cmd _ w haddr) hw

/-! ### `STATUS` -/

/-- Clearing by writing one, flag by flag (R25). -/
theorem hasFlag_clearFlags {R : Type} (f : Flag) (v : Word) (r : Regs R) :
    hasFlag f (clearFlags v r) = (hasFlag f r && !v.getLsbD (flagBit f)) := by
  cases f <;> simp [hasFlag, statusMask, flagBit]

/-- A read of `STATUS` returns the four bits that exist (R25). -/
theorem statusWord_toNat {R : Type} (r : Regs R) : (statusWord r).toNat = r.status.toNat % 16 :=
  Nat.and_two_pow_sub_one_eq_mod _ 4

/-- Settles O20: the store into `STATUS`, flag by flag. -/
theorem statusIsWriteOneToClear : Obligations.StatusIsWriteOneToClear :=
  fun s _ _ v hp haddr =>
    ⟨step_of_access hp (serve_write_reg (x := .status) haddr (by decide) rfl), fun f => hasFlag_clearFlags f v s.regs,
      statusWord_toNat s.regs⟩

/-! ### Reset -/

/-- Inside the array every element of a constant array is the constant, whatever answers outside. -/
theorem vget_replicate_of_lt {α : Type} {n i : Nat} (d a : α) (h : i < n) : vget d (Vector.replicate n a) i = a := by
  simp [vget, Vector.getD, h]

/-- Every register that a host can read is 0 after reset, but for the two constants (R47). -/
theorem readReg_reset (x : Reg) (hid : x ≠ .id) (hver : x ≠ .version) : readReg State.reset.regs x = 0 := by
  cases x
  case id => contradiction
  case version => contradiction
  case constPtI i | constPtQ i | crWI i | crWQ i | crSI i | crSQ i | coef i =>
    simp only [readReg, State.reset, Regs.zeroed, CrLoop.zeroed, vget_replicate]
    rfl
  all_goals rfl

/-- A configuration of zeros has windows too short for its kinds, so a commit of it fails (R151). -/
theorem crCheck_zeroed (constM : Word) : crCheck binary32 (CrConf.zeroed F32.zero) constM = some .cfgWlen := rfl

/-- Order 0 is no order, so a commit of a configuration of zeros fails (45_carrier_pll.md R221). -/
theorem pllCheck_zeroed (constM : Word) : pllCheck binary32 (PllConf.zeroed F32.zero) constM = some .cfgPllOrder := rfl

/-- `CORE_RESET` leaves the registers of hardware reset (R47). -/
theorem command_coreReset (r : Regs F32) : command binary32 .coreReset r = State.reset.regs := by
  simp only [command, commandEnd, coreResetCmd, coreReset, finish_done, zeroOf_binary32]
  rfl

/-- Settles O13: register by register, and both checks at a configuration of zeros. -/
theorem resetLeavesZeroEverywhereButIdAndVersion : Obligations.ResetLeavesZeroEverywhereButIdAndVersion := by
  refine ⟨fun s => ?_, rfl, rfl, readReg_reset, rfl, rfl, rfl, rfl, fun i hi => ⟨?_, ?_⟩, fun p hp j hj => ?_, ?_, ?_⟩
  · rw [exec_eq_command, command_coreReset]
  · exact vget_replicate_of_lt _ _ hi
  · exact vget_replicate_of_lt _ _ hi
  · have hrow : vget (Vector.replicate _ ⟨1#32⟩) State.reset.regs.cr.tab p = Vector.replicate _ F32.zero :=
      vget_replicate_of_lt _ _ hp
    rw [hrow, vget_replicate_of_lt _ _ hj]
  · exact ne_of_eq_of_ne (crCheck_zeroed _) (by decide)
  · exact ne_of_eq_of_ne (pllCheck_zeroed _) (by decide)

/-- An unconfigured clock recovery unit is sound, whatever it holds. -/
theorem crSound_of_unconfigured {R : Type} {N : Numerics R} {r : Regs R} (h : r.cr.derived.cfgOk = 0) :
    CrSound N r := by
  have hne : r.cr.derived.cfgOk ≠ 1 := by rw [h]; decide
  exact { cfgOk_bit := .inl h, admitted := fun h1 => absurd h1 hne, derived_eq := fun h1 => absurd h1 hne
          tab_eq := fun h1 => absurd h1 hne, whead_lt := fun h1 => absurd h1 hne
          shead_lt := fun h1 => absurd h1 hne, cnt_lt := fun h1 => absurd h1 hne }

/-- An unconfigured carrier recovery unit is sound, whatever it holds. -/
theorem pllSound_of_unconfigured {R : Type} {N : Numerics R} {r : Regs R} (h : r.pll.cfgOk = 0) : PllSound N r := by
  have hne : r.pll.cfgOk ≠ 1 := by rw [h]; decide
  exact { cfgOk_bit := .inl h, admitted := fun h1 => absurd h1 hne, gains_eq := fun h1 => absurd h1 hne }

theorem statusLegal_reset : StatusLegal State.reset.regs := Nat.zero_lt_succ 15

theorem errcodeLegal_reset : ErrcodeLegal State.reset.regs := Nat.zero_le 14

theorem accSound_reset : AccSound State.reset.regs :=
  ⟨by decide, by decide, by decide, by decide, by decide⟩

/-- Settles O28: both units are unconfigured after reset. -/
theorem invariantsHoldAtReset : Obligations.InvariantsHoldAtReset :=
  ⟨statusLegal_reset, errcodeLegal_reset, crSound_of_unconfigured rfl, pllSound_of_unconfigured rfl, accSound_reset⟩

/-! ### What every step keeps -/

/-- A property of the registers that reset establishes and that each thing a step can do keeps is kept by every
step: a store, a rejected access, a command, and an illegal word. -/
theorem keptByStep_of {Inv : Regs F32 → Prop} (hreset : Inv State.reset.regs)
    (hstore : ∀ (r t : Regs F32) (x : Reg) (v : Word), Inv r → storeReg r x v = some t → Inv t)
    (hreject : ∀ r : Regs F32, Inv r → Inv (rejectAccess r))
    (hcommand : ∀ (i : Instr) (r : Regs F32), i ≠ .coreReset → Inv r → Inv (command binary32 i r))
    (hillegal : ∀ (w : Word) (r : Regs F32), Inv r → Inv (illegalCommand w r)) : KeptByStep Inv := by
  have hcore : Inv (coreReset binary32) := by rwa [coreReset, zeroOf_binary32]
  intro s t hs hstep
  rcases step_cases hstep with ⟨-, rfl⟩ | ⟨x, rest, -, ⟨r, reply, hserve, rfl⟩ | ⟨w, i, -, -, rfl⟩ | ⟨w, e, -, -, rfl⟩⟩
  case inl => exact hs
  case inr.inl =>
    rcases serve_access_cases hserve with ⟨-, rfl, -⟩ | ⟨y, rfl, -⟩ | ⟨y, v, hst, -⟩ | ⟨rfl, -⟩
    · exact hcore
    · exact hs
    · exact hstore _ _ y v hs hst
    · exact hreject _ hs
  case inr.inr.inl =>
    by_cases hi : i = .coreReset
    · rw [hi, command_coreReset]; exact hreset
    · exact hcommand i _ hi hs
  case inr.inr.inr => exact hillegal w _ hs

section
variable {R : Type} (N : Numerics R)

/-! ### The end of a rule -/

/-- The registers that a command's rule leaves, before the command ends. -/
def CmdEnd.regs : CmdEnd R → Regs R
  | .done r => r
  | .raise _ r => r

@[simp] theorem regs_done (r : Regs R) : (CmdEnd.done r).regs = r := rfl

@[simp] theorem regs_raise (c : ErrCode) (r : Regs R) : (CmdEnd.raise c r).regs = r := rfl

/-- The end of a command writes no unit. -/
@[simp] theorem finish_cr (w : Word) (e : CmdEnd R) : (finish w e).cr = e.regs.cr := by cases e <;> rfl

theorem needCr_regs (r : Regs R) (b : CmdEnd R) :
    (needCr r b).regs = if r.cr.derived.cfgOk = 0 then r else b.regs := by
  unfold needCr
  split <;> rfl

theorem needPll_regs (r : Regs R) (b : CmdEnd R) : (needPll r b).regs = if r.pll.cfgOk = 0 then r else b.regs := by
  unfold needPll
  split <;> rfl

/-- What holds before a command of the CR unit and after its rule holds of what the command leaves, configured or
not. -/
theorem needCr_elim {P : Regs R → Prop} {r : Regs R} {b : CmdEnd R} (hr : P r) (hb : P b.regs) :
    P (needCr r b).regs := by
  rw [needCr_regs]
  split
  · exact hr
  · exact hb

/-- The PLL unit's twin of `needCr_elim`. -/
theorem needPll_elim {P : Regs R → Prop} {r : Regs R} {b : CmdEnd R} (hr : P r) (hb : P b.regs) :
    P (needPll r b).regs := by
  rw [needPll_regs]
  split
  · exact hr
  · exact hb

/-- What a rule of the CR unit leaves alone, the command leaves alone. -/
theorem needCr_keeps {α : Type} (g : Regs R → α) {r : Regs R} {b : CmdEnd R} (h : g b.regs = g r) :
    g (needCr r b).regs = g r := needCr_elim (P := fun q => g q = g r) rfl h

/-- The PLL unit's twin of `needCr_keeps`. -/
theorem needPll_keeps {α : Type} (g : Regs R → α) {r : Regs R} {b : CmdEnd R} (h : g b.regs = g r) :
    g (needPll r b).regs = g r := needPll_elim (P := fun q => g q = g r) rfl h

/-! ### A push, part by part -/

/-- The registers when a push decides between waiting and emitting: the sample is taken and the accumulator
decremented and guarded (42_clock_recovery.md R157). -/
def sampleTaken (r : Regs R) : Regs R :=
  accGuard N (takeSample N (sanitizeC N r.opa) (noteNonfiniteC N r.opa r))

/-- A push is that, and then the decision. -/
theorem crPushCmd_eq (r : Regs R) : crPushCmd N r = needCr r (.done (awaitOrEmit N (sampleTaken N r))) := rfl

/-- A push waits, or emits between symbols, or completes a symbol (R157, R160, R161). -/
theorem awaitOrEmit_cases (r : Regs R) :
    awaitOrEmit N r = r ∨ (∃ y, awaitOrEmit N r = emitSample N y r) ∨
    ∃ e y, awaitOrEmit N r = applySymbol N e y (emitSample N y r) := by
  unfold awaitOrEmit
  split
  · exact .inl rfl
  · unfold emit
    dsimp only
    split
    · exact .inr (.inr ⟨_, _, rfl⟩)
    · exact .inr (.inl ⟨_, rfl⟩)

/-- The guard raises the accumulator to 0. -/
@[simp] theorem accGuard_acc (r : Regs R) : (accGuard N r).cr.loop.acc = maxR N r.cr.loop.acc (zeroOf N) := by
  rcases accGuard_cases N r with ⟨hlt, h⟩ | ⟨hlt, h⟩ <;> simp [h, hlt, maxR]

@[simp] theorem accGuard_outValid (r : Regs R) : (accGuard N r).cr.loop.outValid = r.cr.loop.outValid :=
  accGuard_keeps N (fun u => u.loop.outValid) (by intros; rfl) r

@[simp] theorem takeSample_acc (z : Cx R) (r : Regs R) :
    (takeSample N z r).cr.loop.acc = N.sub r.cr.loop.acc (oneOf N) := rfl

@[simp] theorem takeSample_outValid (z : Cx R) (r : Regs R) : (takeSample N z r).cr.loop.outValid = 0 := rfl

@[simp] theorem sampleTaken_acc (r : Regs R) :
    (sampleTaken N r).cr.loop.acc = maxR N (N.sub r.cr.loop.acc (oneOf N)) (zeroOf N) := by
  simp [sampleTaken]

@[simp] theorem sampleTaken_outValid (r : Regs R) : (sampleTaken N r).cr.loop.outValid = 0 := by
  simp [sampleTaken]

@[simp] theorem sampleTaken_live (r : Regs R) : (sampleTaken N r).cr.live = r.cr.live := by simp [sampleTaken]

@[simp] theorem sampleTaken_derived (r : Regs R) : (sampleTaken N r).cr.derived = r.cr.derived := by
  simp [sampleTaken]

@[simp] theorem emitSample_acc (y : Cx R) (r : Regs R) :
    (emitSample N y r).cr.loop.acc = N.add r.cr.loop.acc r.cr.derived.ratio := rfl

@[simp] theorem emitSample_outValid (y : Cx R) (r : Regs R) :
    (emitSample N y r).cr.loop.outValid = r.cr.loop.outValid := rfl

@[simp] theorem applySymbol_acc (e : R) (y : Cx R) (r : Regs R) :
    (applySymbol N e y r).cr.loop.acc = maxR N (N.sub r.cr.loop.acc (correction N r.cr e)) (zeroOf N) := by
  simp [applySymbol]

@[simp] theorem applySymbol_outValid (e : R) (y : Cx R) (r : Regs R) :
    (applySymbol N e y r).cr.loop.outValid = 1 := rfl

@[simp] theorem applySymbol_lastE (e : R) (y : Cx R) (r : Regs R) : (applySymbol N e y r).cr.loop.lastE = e := rfl

@[simp] theorem applySymbol_lastDec (e : R) (y : Cx R) (r : Regs R) :
    (applySymbol N e y r).cr.loop.lastDec = correction N r.cr e := rfl

/-! ### What no command touches -/

/-- A part of the registers that lies outside everything a command other than `CORE_RESET` writes. -/
structure OutsideCommands {α : Type} (g : Regs R → α) : Prop where
  /-- The results, the error registers and the units. -/
  written : ∀ r res resE errcode errcmd cr pll,
    g { r with res := res, resE := resE, errcode := errcode, errcmd := errcmd, cr := cr, pll := pll } = g r
  /-- The flags. -/
  flag : ∀ f r, g (setFlag f r) = g r

namespace OutsideCommands
variable {α : Type} {g : Regs R → α} (hg : OutsideCommands g)
include hg

theorem keeps_setFlagIf (c : Bool) (f : Flag) (r : Regs R) : g (setFlagIf c f r) = g r := by
  cases c
  · rfl
  · exact hg.flag f r

theorem keeps_cr (r : Regs R) (u : CrUnit R) : g { r with cr := u } = g r := hg.written r _ _ _ _ _ _

theorem keeps_accGuard (r : Regs R) : g (accGuard N r) = g r := by
  rcases accGuard_cases N r with ⟨-, h⟩ | ⟨-, h⟩ <;> rw [h]
  rw [hg.flag, hg.keeps_cr]

theorem keeps_sampleTaken (r : Regs R) : g (sampleTaken N r) = g r :=
  (hg.keeps_accGuard N _).trans ((hg.keeps_cr _ _).trans (hg.keeps_setFlagIf _ _ r))

theorem keeps_applySymbol (e : R) (y : Cx R) (r : Regs R) : g (applySymbol N e y r) = g r :=
  (hg.keeps_cr _ _).trans ((hg.keeps_accGuard N _).trans ((hg.keeps_cr _ _).trans (hg.keeps_setFlagIf _ _ r)))

theorem keeps_awaitOrEmit (r : Regs R) : g (awaitOrEmit N r) = g r := by
  rcases awaitOrEmit_cases N r with h | ⟨y, h⟩ | ⟨e, y, h⟩ <;> rw [h]
  · exact hg.keeps_cr _ _
  · rw [hg.keeps_applySymbol]; exact hg.keeps_cr _ _

theorem keeps_finish (w : Word) (e : CmdEnd R) : g (finish w e) = g e.regs := by
  cases e with
  | done r => exact hg.written r _ _ _ _ _ _
  | raise c r => exact (hg.flag _ _).trans (hg.written r _ _ _ _ _ _)

/-- The rule of every command but `CORE_RESET` leaves such a part alone. -/
theorem keeps_commandEnd {i : Instr} (hi : i ≠ .coreReset) (r : Regs R) : g (commandEnd N i r).regs = g r := by
  cases i
  case coreReset => contradiction
  case nop => rfl
  case crConfig =>
    simp only [commandEnd, crConfigCmd]
    split <;> exact hg.keeps_cr _ _
  case pllConfig =>
    simp only [commandEnd, pllConfigCmd]
    split <;> exact hg.written r _ _ _ _ _ _
  case itrpCoef | itrpEval =>
    refine needCr_keeps g ?_
    split
    · rfl
    · exact hg.written r _ _ _ _ _ _
  case crReset | tedEval => exact needCr_keeps g (hg.written r _ _ _ _ _ _)
  case crPush => exact needCr_keeps g ((hg.keeps_awaitOrEmit N _).trans (hg.keeps_sampleTaken N r))
  case pllReset => exact needPll_keeps g (hg.written r _ _ _ _ _ _)
  case pllPush | pedEval | lfStep | ncoStep =>
    exact needPll_keeps g ((hg.written _ _ _ _ _ _ _).trans (hg.keeps_setFlagIf _ _ r))

/-- Every command but `CORE_RESET` leaves such a part alone. -/
theorem keeps_command {i : Instr} (hi : i ≠ .coreReset) (r : Regs R) : g (command N i r) = g r :=
  (hg.keeps_finish _ _).trans (hg.keeps_commandEnd N hi r)

end OutsideCommands

/-- The operands, the staging registers and the constellation table are the host's to write (10_state.md R22, R27, R39,
R45). -/
theorem outsideCommands_hostItems :
    OutsideCommands fun r : Regs R => (r.opa, r.opb, r.crStage, r.pllStage, r.constM, r.constPt) :=
  ⟨fun _ _ _ _ _ _ _ => rfl, fun _ _ => rfl⟩

end

/-- The state after a command is the state before with the command's registers. -/
theorem eq_of_exec {i : Instr} {s t : State} (h : exec i s = .next t) :
    t = { s with regs := command binary32 i s.regs } := by
  rw [exec_eq_command] at h
  injection h with h
  exact h.symm

/-- Settles O21: the six items lie outside what commands write. -/
theorem commandsLeaveOperandsAndStagingAlone : Obligations.CommandsLeaveOperandsAndStagingAlone := by
  intro i s t h hi
  obtain rfl := eq_of_exec h
  simpa only [Prod.mk.injEq] using outsideCommands_hostItems.keeps_command binary32 hi s.regs

/-! ### Legal `STATUS` and `ERRCODE` -/

/-- The bits of `STATUS` above the flags. -/
def statusRest {R : Type} (r : Regs R) : Word := r.status >>> 4

/-- `STATUS` is legal when it has no bits above the flags. -/
theorem statusLegal_iff (r : Regs F32) : StatusLegal r ↔ statusRest r = 0 := by
  unfold StatusLegal statusRest
  bv_omega

theorem statusRest_setFlag {R : Type} (f : Flag) (r : Regs R) : statusRest (setFlag f r) = statusRest r := by
  have hmask : flagMask f >>> 4 = 0#32 := by cases f <;> decide
  simp [statusRest, BitVec.ushiftRight_or_distrib, hmask]

/-- No command touches the bits of `STATUS` above the flags. -/
theorem outsideCommands_statusRest {R : Type} : OutsideCommands (statusRest : Regs R → Word) :=
  ⟨fun _ _ _ _ _ _ _ => rfl, statusRest_setFlag⟩

/-- A host write leaves `STATUS` as it was, or clears flags. -/
theorem storeReg_status {r t : Regs F32} {x : Reg} {v : Word} (h : storeReg r x v = some t) :
    t.status = r.status ∨ t.status = r.status &&& ~~~(v &&& statusMask) := by
  cases x <;> simp only [storeReg, Option.some.injEq, reduceCtorEq] at h <;> subst h
  case status => exact .inr rfl
  all_goals exact .inl rfl

theorem keptByStep_statusLegal : KeptByStep StatusLegal := by
  refine keptByStep_of statusLegal_reset (fun r t x v hr hst => ?_) (fun r hr => ?_)
    (fun i r hi hr => ?_) (fun w r hr => ?_)
  · rcases storeReg_status hst with h | h
    · rwa [StatusLegal, h]
    · rw [StatusLegal, h, BitVec.toNat_and]
      exact Nat.and_le_left.trans_lt hr
  · rw [statusLegal_iff] at hr ⊢
    rw [rejectAccess, statusRest_setFlag, hr]
  · rw [statusLegal_iff] at hr ⊢
    rw [outsideCommands_statusRest.keeps_command binary32 hi, hr]
  · rw [statusLegal_iff] at hr ⊢
    exact (outsideCommands_statusRest.keeps_finish w (.raise .illegalCmd r)).trans hr

/-- A command ends with `ERRCODE` 0 or a code of the table. -/
theorem errcodeLegal_finish (w : Word) (e : CmdEnd F32) : ErrcodeLegal (finish w e) := by
  cases e with
  | done r => exact Nat.zero_le 14
  | raise c r => exact (errCodeWord_range c).2

theorem keptByStep_errcodeLegal : KeptByStep ErrcodeLegal := by
  refine keptByStep_of errcodeLegal_reset (fun r t x v hr hst => ?_) (fun r hr => hr)
    (fun i r _ _ => errcodeLegal_finish _ _) (fun w r _ => errcodeLegal_finish w (.raise .illegalCmd r))
  obtain ⟨-, -, herr, -⟩ := storeReg_keeps hst
  rwa [ErrcodeLegal, herr]

/-- Settles O24: flags are set and cleared among the four low bits, and codes come from the table. -/
theorem statusAndErrcodeStayLegal : Obligations.StatusAndErrcodeStayLegal :=
  ⟨keptByStep_statusLegal, keptByStep_errcodeLegal⟩

/-! ### Flags -/

@[simp] theorem hasFlag_setFlag {R : Type} (f g : Flag) (r : Regs R) :
    hasFlag f (setFlag g r) = (hasFlag f r || decide (f = g)) := by
  have hbit : (flagMask g).getLsbD (flagBit f) = decide (f = g) := by cases f <;> cases g <;> decide
  simp [hasFlag, hbit]

@[simp] theorem hasFlag_setFlagIf {R : Type} (c : Bool) (f g : Flag) (r : Regs R) :
    hasFlag f (setFlagIf c g r) = (hasFlag f r || (c && decide (f = g))) := by
  cases c <;> simp [setFlagIf]

/-- Only `STATUS` holds flags. -/
theorem hasFlag_congr {R : Type} {r t : Regs R} (f : Flag) (h : t.status = r.status) : hasFlag f t = hasFlag f r := by
  simp [hasFlag, h]

/-- A command sets `CMD_ERR` when it leaves an error code, and no other flag of its own (R252). -/
theorem hasFlag_finish {R : Type} (f : Flag) (w : Word) (e : CmdEnd R) :
    hasFlag f (finish w e) = true ↔ hasFlag f e.regs = true ∨ (f = .cmdErr ∧ (finish w e).errcode ≠ 0) := by
  cases e with
  | done r => simp [hasFlag]
  | raise c r =>
    have hcode : errCodeWord c ≠ 0#32 := by cases c <;> decide
    have hraise : hasFlag f (raiseCmdError c w r) = (hasFlag f r || decide (f = .cmdErr)) := hasFlag_setFlag f _ _
    simp [hraise, hcode]

/-- The clock recovery unit holds no flag. -/
@[simp] theorem hasFlag_with_cr {R : Type} (f : Flag) (r : Regs R) (u : CrUnit R) :
    hasFlag f { r with cr := u } = hasFlag f r := rfl

section
variable {R : Type} (N : Numerics R)

@[simp] theorem hasFlag_noteNonfiniteC (f : Flag) (z : Cx R) (r : Regs R) :
    hasFlag f (noteNonfiniteC N z r) = (hasFlag f r || (!finC N z && decide (f = .nonfinite))) :=
  hasFlag_setFlagIf _ _ _ _

@[simp] theorem hasFlag_noteNonfiniteR (f : Flag) (e : R) (r : Regs R) :
    hasFlag f (noteNonfiniteR N e r) = (hasFlag f r || (!N.fin e && decide (f = .nonfinite))) :=
  hasFlag_setFlagIf _ _ _ _

@[simp] theorem hasFlag_accGuard (f : Flag) (r : Regs R) :
    hasFlag f (accGuard N r) = (hasFlag f r || (N.lt r.cr.loop.acc (zeroOf N) && decide (f = .accNeg))) := by
  rcases accGuard_cases N r with ⟨hlt, h⟩ | ⟨hlt, h⟩ <;> simp [h, hlt]

@[simp] theorem hasFlag_takeSample (f : Flag) (z : Cx R) (r : Regs R) :
    hasFlag f (takeSample N z r) = hasFlag f r := rfl

@[simp] theorem hasFlag_emitSample (f : Flag) (y : Cx R) (r : Regs R) :
    hasFlag f (emitSample N y r) = hasFlag f r := rfl

@[simp] theorem hasFlag_sampleTaken (f : Flag) (r : Regs R) :
    hasFlag f (sampleTaken N r) = (hasFlag f r || (!finC N r.opa && decide (f = .nonfinite)) ||
      (N.lt (N.sub r.cr.loop.acc (oneOf N)) (zeroOf N) && decide (f = .accNeg))) := by
  simp [sampleTaken]

@[simp] theorem hasFlag_applySymbol (f : Flag) (e : R) (y : Cx R) (r : Regs R) :
    hasFlag f (applySymbol N e y r) = (hasFlag f r || (N.isNaN (rawCorrection N r.cr e) && decide (f = .nonfinite)) ||
      (N.lt (N.sub r.cr.loop.acc (correction N r.cr e)) (zeroOf N) && decide (f = .accNeg))) := by
  refine (hasFlag_accGuard N f _).trans ?_
  rw [hasFlag_with_cr, hasFlag_setFlagIf]
  simp only [setFlagIf_cr]

/-- The causes of the two numeric flags in a push that ran at `r` and left the unit `u`: the operand and the
decremented accumulator, and, when a symbol completed, its correction and the accumulator after it (60_exceptions.md
R262, R263). -/
def pushCause (f : Flag) (r : Regs R) (u : CrUnit R) : Prop :=
  (f = .nonfinite ∧ finC N r.opa = false) ∨
  (f = .accNeg ∧ N.lt (N.sub r.cr.loop.acc (oneOf N)) (zeroOf N) = true) ∨
  (u.loop.outValid = 1 ∧
    ((f = .nonfinite ∧ N.isNaN (N.mul r.cr.derived.g u.loop.lastE) = true) ∨
     (f = .accNeg ∧ N.lt (N.sub (N.add (maxR N (N.sub r.cr.loop.acc (oneOf N)) (zeroOf N)) r.cr.derived.ratio)
        u.loop.lastDec) (zeroOf N) = true)))

/-- A push sets a flag exactly for one of its causes. -/
theorem hasFlag_push (f : Flag) (r : Regs R) :
    hasFlag f (awaitOrEmit N (sampleTaken N r)) = true ↔
      hasFlag f r = true ∨ pushCause N f r (awaitOrEmit N (sampleTaken N r)).cr := by
  rcases awaitOrEmit_cases N (sampleTaken N r) with h | ⟨y, h⟩ | ⟨e, y, h⟩ <;> rw [h]
  case inl => grind [pushCause, hasFlag_sampleTaken, sampleTaken_outValid]
  case inr.inl =>
    rw [hasFlag_emitSample]
    grind [pushCause, hasFlag_sampleTaken, emitSample_outValid, sampleTaken_outValid]
  case inr.inr =>
    rw [hasFlag_applySymbol, hasFlag_emitSample, hasFlag_sampleTaken, rawCorrection, pushCause, applySymbol_outValid,
      applySymbol_lastE, applySymbol_lastDec, emitSample_acc, sampleTaken_acc, emitSample_cr_derived, sampleTaken_derived]
    grind

/-- The rule of `CR_PUSH` sets a flag exactly for one of its causes, in a configured unit. -/
theorem hasFlag_crPushCmd (f : Flag) (r : Regs R) :
    hasFlag f (crPushCmd N r).regs = true ↔
      hasFlag f r = true ∨ (r.cr.derived.cfgOk ≠ 0 ∧ pushCause N f r (crPushCmd N r).regs.cr) := by
  rw [crPushCmd_eq, needCr_regs]
  split
  case isTrue h0 => exact ⟨.inl, fun hor => hor.resolve_right fun hcause => hcause.1 h0⟩
  case isFalse h0 =>
    rw [and_iff_right h0, regs_done]
    exact hasFlag_push N f r

/-- The causes of a flag in a command's rule, by command; only the rules that sanitize an operand have any. -/
def ruleCause (f : Flag) (r : Regs R) (u : CrUnit R) : Instr → Prop
  | .crPush => r.cr.derived.cfgOk ≠ 0 ∧ pushCause N f r u
  | .pllPush | .pedEval => r.pll.cfgOk ≠ 0 ∧ f = .nonfinite ∧ finC N r.opa = false
  | .lfStep | .ncoStep => r.pll.cfgOk ≠ 0 ∧ f = .nonfinite ∧ N.fin r.opb = false
  | _ => False

/-- A rule that writes registers other than `STATUS` after noting its operand. -/
theorem hasFlag_needPll_noted {f : Flag} {r q : Regs R} {finite : Bool}
    (h : hasFlag f q = (hasFlag f r || (!finite && decide (f = .nonfinite)))) :
    hasFlag f (needPll r (.done q)).regs = true ↔
      hasFlag f r = true ∨ (r.pll.cfgOk ≠ 0 ∧ f = .nonfinite ∧ finite = false) := by
  rw [needPll_regs]
  split
  case isTrue h0 => exact ⟨.inl, fun hor => hor.resolve_right fun hcause => hcause.1 h0⟩
  case isFalse h0 =>
    rw [and_iff_right h0, regs_done, h]
    simp [and_comm]

/-- A rule that writes no `STATUS` has no cause to list. -/
theorem hasFlag_quiet {f : Flag} {r q : Regs R} (h : q.status = r.status) :
    hasFlag f q = true ↔ hasFlag f r = true ∨ False := by
  rw [hasFlag_congr f h, or_false]

/-- The rule of a command sets a flag exactly for one of its causes. -/
theorem hasFlag_commandEnd (f : Flag) {i : Instr} (hi : i ≠ .coreReset) (r : Regs R) :
    hasFlag f (commandEnd N i r).regs = true ↔
      hasFlag f r = true ∨ ruleCause N f r (commandEnd N i r).regs.cr i := by
  cases i
  case coreReset => contradiction
  case nop => exact hasFlag_quiet rfl
  case crConfig =>
    refine hasFlag_quiet ?_
    simp only [commandEnd, crConfigCmd]
    split <;> rfl
  case pllConfig =>
    refine hasFlag_quiet ?_
    simp only [commandEnd, pllConfigCmd]
    split <;> rfl
  case crReset | tedEval => exact hasFlag_quiet (needCr_keeps Regs.status rfl)
  case itrpCoef | itrpEval =>
    refine hasFlag_quiet (needCr_keeps Regs.status ?_)
    split <;> simp only [regs_raise, regs_done]
  case pllReset => exact hasFlag_quiet (needPll_keeps Regs.status rfl)
  case pllPush | pedEval => exact hasFlag_needPll_noted (hasFlag_noteNonfiniteC N f r.opa r)
  case lfStep | ncoStep => exact hasFlag_needPll_noted (hasFlag_noteNonfiniteR N f r.opb r)
  case crPush => exact hasFlag_crPushCmd N f r

/-- After a command a flag is set exactly when it was set before, or its cause occurred (10_state.md R25). -/
theorem hasFlag_command (f : Flag) {i : Instr} (hi : i ≠ .coreReset) (r : Regs R) :
    hasFlag f (command N i r) = true ↔ hasFlag f r = true ∨ ruleCause N f r (command N i r).cr i ∨
      (f = .cmdErr ∧ (command N i r).errcode ≠ 0) := by
  have hcr : (command N i r).cr = (commandEnd N i r).regs.cr := finish_cr _ _
  rw [hcr, command, hasFlag_finish, hasFlag_commandEnd N f hi, or_assoc]

/-- No rule raises an error's flag or the bus's by itself. -/
theorem not_ruleCause {f : Flag} (hacc : f ≠ .accNeg) (hnon : f ≠ .nonfinite) (r : Regs R) (u : CrUnit R)
    (i : Instr) : ¬ ruleCause N f r u i := by
  cases i <;> simp [ruleCause, pushCause, hacc, hnon]

/-- `ACC_NEG` has causes in a push alone. -/
theorem ruleCause_accNeg (r : Regs R) (u : CrUnit R) (i : Instr) :
    ruleCause N .accNeg r u i ↔
      ((i = .crPush ∧ r.cr.derived.cfgOk ≠ 0) ∧ N.lt (N.sub r.cr.loop.acc (oneOf N)) (zeroOf N) = true) ∨
      (((i = .crPush ∧ r.cr.derived.cfgOk ≠ 0) ∧ u.loop.outValid = 1) ∧
        N.lt (N.sub (N.add (maxR N (N.sub r.cr.loop.acc (oneOf N)) (zeroOf N)) r.cr.derived.ratio)
          u.loop.lastDec) (zeroOf N) = true) := by
  cases i <;> simp [ruleCause, pushCause, and_or_left, and_assoc]

/-- `NONFINITE` has causes in every rule that sanitizes an operand. -/
theorem ruleCause_nonfinite (r : Regs R) (u : CrUnit R) (i : Instr) :
    ruleCause N .nonfinite r u i ↔
      ((i = .crPush ∧ r.cr.derived.cfgOk ≠ 0) ∧ finC N r.opa = false) ∨
      (((i = .crPush ∧ r.cr.derived.cfgOk ≠ 0) ∧ u.loop.outValid = 1) ∧
        N.isNaN (N.mul r.cr.derived.g u.loop.lastE) = true) ∨
      (r.pll.cfgOk ≠ 0 ∧ (i = .pllPush ∨ i = .pedEval) ∧ finC N r.opa = false) ∨
      (r.pll.cfgOk ≠ 0 ∧ (i = .lfStep ∨ i = .ncoStep) ∧ N.fin r.opb = false) := by
  cases i <;> simp [ruleCause, pushCause, and_or_left, and_assoc]

end

/-- Settles O10: the causes of each flag, as the statement lists them. -/
theorem flagsAreStickyAndSetOnlyByTheirCause : Obligations.FlagsAreStickyAndSetOnlyByTheirCause := by
  intro i s t h hi
  obtain rfl := eq_of_exec h
  have hflag := fun f => hasFlag_command binary32 f hi s.regs
  refine ⟨?cmdErr, ?accNeg, ?nonfinite, ?busErr⟩
  case cmdErr => simpa [not_ruleCause binary32] using hflag .cmdErr
  case accNeg => simpa [ruleCause_accNeg, maxR, or_assoc] using hflag .accNeg
  case nonfinite => simpa [ruleCause_nonfinite, finC, or_assoc] using hflag .nonfinite
  case busErr =>
    rw [Bool.eq_iff_iff]
    simpa [not_ruleCause binary32] using hflag .busErr

/-! ### Arithmetic on values that are not negative -/

/-- At or above 0, `-0` included. -/
theorem zero_le_iff {x : F32} : f32Le F32.zero x = true ↔ f32IsNaN x = false ∧ 0 ≤ f32ToInt x := by
  have hzero : f32IsNaN F32.zero = false ∧ f32ToInt F32.zero = 0 := by decide
  rw [f32Le_iff, hzero.2, and_iff_right hzero.1]

/-- A rounding does not make a value negative: a minus sign stays only on a zero. -/
theorem f32ToInt_round_of_nonneg {neg : Bool} {n : Nat} (d : Nat) (h : 0 ≤ withSign neg n) :
    0 ≤ f32ToInt (f32Round neg n d) := by
  cases neg
  case false => exact f32ToInt_round_nonneg n d
  case true =>
    obtain rfl : n = 0 := by rw [withSign_true] at h; omega
    have hquot : ∀ u, roundNearestEven 0 u = 0 := fun u => by
      rcases roundNearestEven_cases 0 u with hfloor | ⟨-, hrem⟩
      · rw [hfloor, Nat.zero_div]
      · simp at hrem
    have hmag : roundMag 0 d = 0 := by simp [roundMag, roundStep, hquot]
    rw [f32Round, hmag]
    decide

/-- A finite product of values at or above 0 is at or above 0. -/
theorem zero_le_f32Mul {a b : F32} (ha : f32Fin a = true) (hb : f32Fin b = true) (ha0 : 0 ≤ f32ToInt a)
    (hb0 : 0 ≤ f32ToInt b) : f32Le F32.zero (f32Mul a b) = true := by
  refine zero_le_iff.2 ⟨f32IsNaN_mul ha hb, ?_⟩
  rw [f32Mul_of_fin ha hb]
  refine f32ToInt_round_of_nonneg _ ?_
  rw [← withSign_mul, ← f32ToInt_eq_withSign, ← f32ToInt_eq_withSign]
  exact mul_nonneg ha0 hb0

/-- A quotient of a finite value at or above 0 by one above 0 is at or above 0. -/
theorem zero_le_f32Div {a b : F32} (ha : f32Fin a = true) (hb : f32Fin b = true) (ha0 : 0 ≤ f32ToInt a)
    (hb0 : 0 < f32ToInt b) : f32Le F32.zero (f32Div a b) = true := by
  have hmag : f32Mag b ≠ 0 := fun h => hb0.ne' (by simp [f32ToInt_eq_withSign, h])
  have hsign : f32Sign b = false := by
    by_contra hs
    rw [f32ToInt_eq_withSign, Bool.eq_true_of_not_eq_false hs, withSign_true] at hb0
    omega
  refine zero_le_iff.2 ⟨f32IsNaN_div ha hb hmag, ?_⟩
  rw [f32Div_of_fin ha hb hmag, hsign, Bool.bne_false]
  refine f32ToInt_round_of_nonneg _ ?_
  rw [withSign_mul_right, ← f32ToInt_eq_withSign]
  exact mul_nonneg ha0 (by positivity)

/-- A sum of values at or above 0, the second finite, is at or above 0, though it may be infinite. -/
theorem zero_le_f32Add {a b : F32} (ha : f32Le F32.zero a = true) (hb : f32Fin b = true) (hb0 : 0 ≤ f32ToInt b) :
    f32Le F32.zero (f32Add a b) = true := by
  obtain ⟨hnan, ha0⟩ := zero_le_iff.1 ha
  cases hinf : f32IsInf a
  case true =>
    have hsum : f32Add a b = a := by simp [f32Add, f32AddAs, hnan, hinf, f32IsNaN_of_fin hb, f32IsInf_of_fin hb]
    rwa [hsum]
  case false =>
    refine zero_le_iff.2 ⟨f32IsNaN_add hnan hb, ?_⟩
    rw [f32Add, f32AddAs_of_fin _ _ (f32Fin_of_not hnan hinf) hb, f32AddFin]
    split
    case isTrue =>
      rw [f32Zero_eq_f32Round]
      exact f32ToInt_round_of_nonneg 1 (by rw [withSign_zero])
    case isFalse =>
      refine f32ToInt_round_of_nonneg 1 ?_
      rw [withSign_natAbs]
      omega

/-- A number raised to 0 is at or above 0. -/
theorem zero_le_maxR {x : F32} (h : f32IsNaN x = false) : f32Le F32.zero (maxR binary32 x F32.zero) = true := by
  unfold maxR
  cases hlt : f32Lt x F32.zero
  case true => rw [binary32_lt, hlt, if_pos rfl]; decide
  case false => rw [binary32_lt, hlt]; exact f32Le_of_not_lt h (by decide) hlt

/-- An infinity lies above every finite magnitude. -/
theorem f32Mag_lt_of_isInf {x y : F32} (hx : f32Fin x = true) (hy : f32IsInf y = true) : f32Mag x < f32Mag y := by
  simp only [f32IsInf, Bool.and_eq_true, beq_iff_eq] at hy
  obtain ⟨hexp, hfrac⟩ := hy
  have hmag : f32Mag y = 2 ^ 23 * 2 ^ 254 := by simp [f32Mag, hexp, hfrac]
  rw [hmag]
  exact (f32Mag_le hx).trans_lt (by norm_num)

/-- A number between two finite values is finite. -/
theorem f32Fin_of_between {lo x hi : F32} (hlo : f32Fin lo = true) (hhi : f32Fin hi = true)
    (hle : f32Le lo x = true) (hge : f32Le x hi = true) : f32Fin x = true := by
  obtain ⟨-, hnan, hle⟩ := f32Le_iff.1 hle
  obtain ⟨-, -, hge⟩ := f32Le_iff.1 hge
  refine f32Fin_of_not hnan (Bool.eq_false_of_not_eq_true fun hinf => ?_)
  have hlo := f32Mag_lt_of_isInf hlo hinf
  have hhi := f32Mag_lt_of_isInf hhi hinf
  have hmax := abs_le_max_abs_abs hle hge
  simp only [f32ToInt_eq_withSign, abs_withSign] at hmax
  omega

/-! ### The phase accumulator -/

/-- `OSF_in * 0.5` and `OSF_in * 0.25`: a scaling by at most 1 of a finite value at or above 0. -/
theorem f32Mul_scaled {x c : F32} (hx : f32Fin x = true) (hx0 : f32Le F32.zero x = true) (hc : f32Fin c = true)
    (hc0 : 0 ≤ f32ToInt c) (hc1 : f32Mag c ≤ f32Unit) :
    f32Fin (f32Mul x c) = true ∧ f32Le F32.zero (f32Mul x c) = true :=
  ⟨f32Fin_mul hx hc hc1, zero_le_f32Mul hx hc (zero_le_iff.1 hx0).2 hc0⟩

/-- The correction is a number clamped to plus or minus `OSF_in * 0.25` (42_clock_recovery.md R161). -/
theorem correction_eq_clamp (u : CrUnit F32) (e : F32) : ∃ v, f32IsNaN v = false ∧
    correction binary32 u e = clamp binary32 v (f32Sub F32.zero (f32Mul u.live.osfIn binary32.quarter))
      (f32Mul u.live.osfIn binary32.quarter) := by
  cases hnan : f32IsNaN (rawCorrection binary32 u e)
  case false => exact ⟨_, hnan, by simp [correction, hnan]⟩
  case true => exact ⟨F32.zero, by decide, by simp [correction, hnan]⟩

/-- The correction is finite when `OSF_in` is finite and not negative. -/
theorem f32Fin_correction {u : CrUnit F32} (hfin : f32Fin u.live.osfIn = true)
    (hnonneg : f32Le F32.zero u.live.osfIn = true) (e : F32) : f32Fin (correction binary32 u e) = true := by
  obtain ⟨hqfin, hqnonneg⟩ :=
    f32Mul_scaled (c := binary32.quarter) hfin hnonneg (by decide) (by decide) (by decide)
  obtain ⟨hnegfin, hneg⟩ := f32Sub_zero_left hqfin
  have hq := (zero_le_iff.1 hqnonneg).2
  obtain ⟨v, hnum, hclamp⟩ := correction_eq_clamp u e
  obtain ⟨hge, hle⟩ := clamp_between hnum hnegfin hqfin (by omega)
  rw [hclamp]
  exact f32Fin_of_between hnegfin hqfin hge hle

/-- A change of the accumulator alone has only the accumulator to show sound. -/
theorem AccSound.with_acc {r t : Regs F32} (hr : AccSound r) (hacc : f32Le F32.zero t.cr.loop.acc = true)
    (hlive : t.cr.live = r.cr.live) (hratio : t.cr.derived.ratio = r.cr.derived.ratio) : AccSound t where
  acc_nonneg := hacc
  osf_fin := by rw [hlive]; exact hr.osf_fin
  osf_nonneg := by rw [hlive]; exact hr.osf_nonneg
  ratio_fin := by rw [hratio]; exact hr.ratio_fin
  ratio_nonneg := by rw [hratio]; exact hr.ratio_nonneg

/-- `AccSound` speaks of the accumulator, the live configuration and the increment only. -/
theorem AccSound.congr {r t : Regs F32} (hr : AccSound r) (hacc : t.cr.loop.acc = r.cr.loop.acc)
    (hlive : t.cr.live = r.cr.live) (hratio : t.cr.derived.ratio = r.cr.derived.ratio) : AccSound t :=
  hr.with_acc (by rw [hacc]; exact hr.acc_nonneg) hlive hratio

theorem AccSound.of_cr_eq {r t : Regs F32} (hr : AccSound r) (h : t.cr = r.cr) : AccSound t :=
  hr.congr (by rw [h]) (by rw [h]) (by rw [h])

/-- A push takes a sample off the accumulator and raises it to 0. -/
theorem sampleTaken_accSound {r : Regs F32} (hr : AccSound r) : AccSound (sampleTaken binary32 r) := by
  have hnum : f32IsNaN (f32Sub r.cr.loop.acc ⟨0x3F800000#32⟩) = false :=
    f32IsNaN_sub (zero_le_iff.1 hr.acc_nonneg).1 (by decide)
  exact hr.with_acc (by simpa using zero_le_maxR hnum) (by simp) (by simp)

/-- An emission adds the increment. -/
theorem emitSample_accSound {r : Regs F32} (hr : AccSound r) (y : Cx F32) : AccSound (emitSample binary32 y r) :=
  hr.with_acc (zero_le_f32Add hr.acc_nonneg hr.ratio_fin (zero_le_iff.1 hr.ratio_nonneg).2) rfl rfl

/-- A symbol takes its correction off the accumulator and raises it to 0. -/
theorem applySymbol_accSound {r : Regs F32} (hr : AccSound r) (e : F32) (y : Cx F32) :
    AccSound (applySymbol binary32 e y r) := by
  have hnum : f32IsNaN (f32Sub r.cr.loop.acc (correction binary32 r.cr e)) = false :=
    f32IsNaN_sub (zero_le_iff.1 hr.acc_nonneg).1 (f32Fin_correction hr.osf_fin hr.osf_nonneg e)
  exact hr.with_acc (by simpa using zero_le_maxR hnum) (by simp) (by simp)

theorem awaitOrEmit_accSound {r : Regs F32} (hr : AccSound r) : AccSound (awaitOrEmit binary32 r) := by
  rcases awaitOrEmit_cases binary32 r with h | ⟨y, h⟩ | ⟨e, y, h⟩ <;> rw [h]
  · exact hr
  · exact emitSample_accSound hr y
  · exact applySymbol_accSound (emitSample_accSound hr y) e y

/-- A configuration that a commit admits has a finite `OSF_in`, not negative (42_clock_recovery.md R151). -/
theorem osfIn_of_crCheck {c : CrConf F32} {constM : Word} (h : crCheck binary32 c constM = none) :
    f32Fin c.osfIn = true ∧ f32Le F32.zero c.osfIn = true := by
  have hloop : loopConfBad binary32 c = false := by
    by_contra hbad
    rw [Bool.not_eq_false] at hbad
    simp only [crCheck, hbad, if_true] at h
    repeat' split at h
    all_goals contradiction
  simp only [loopConfBad, Bool.or_eq_false_iff, Bool.not_eq_false', binary32_fin, binary32_le, zeroOf_binary32] at hloop
  obtain ⟨⟨⟨⟨hfin, hpos⟩, -⟩, -⟩, -⟩ := hloop
  have hnum := f32IsNaN_of_fin hfin
  refine ⟨hfin, zero_le_iff.2 ⟨hnum, ?_⟩⟩
  by_contra hneg
  have hle : f32Le c.osfIn F32.zero = true := f32Le_iff.2 ⟨hnum, by decide, (not_le.1 hneg).le⟩
  rw [hpos] at hle
  contradiction

/-- A unit reset puts the accumulator at `OSF_in * 0.5` (42_clock_recovery.md R155). -/
theorem crUnitReset_accSound {r : Regs F32} (hr : AccSound r) :
    AccSound { r with cr := crUnitReset binary32 r.cr } := by
  obtain ⟨-, hacc⟩ :=
    f32Mul_scaled (c := binary32.half) hr.osf_fin hr.osf_nonneg (by decide) (by decide) (by decide)
  exact hr.with_acc hacc rfl rfl

/-- `OSF_in / OSF_ted` of a finite `OSF_in`, not negative: the divisor is 1 or 2 (41_ted.md R130). -/
theorem crDerive_ratio {c : CrConf F32} (hfin : f32Fin c.osfIn = true) (hnonneg : f32Le F32.zero c.osfIn = true) :
    f32Fin (crDerive binary32 c).ratio = true ∧ f32Le F32.zero (crDerive binary32 c).ratio = true := by
  have hdiv : ∀ n, n = 1 ∨ n = 2 → f32Fin (f32OfNat n) = true ∧ f32Unit ≤ f32Mag (f32OfNat n) ∧
      0 < f32ToInt (f32OfNat n) := by
    rintro n (rfl | rfl) <;> decide
  obtain ⟨hnfin, hnmag, hnpos⟩ := hdiv (tedOsf c) (by rw [tedOsf_eq]; split <;> simp)
  exact ⟨f32Fin_div hfin hnfin hnmag, zero_le_f32Div hfin hnfin (zero_le_iff.1 hnonneg).2 hnpos⟩

/-- A commit leaves a sound accumulator: a unit reset under a configuration that passed the check. -/
theorem crCommit_accSound {r : Regs F32} (hr : AccSound r) (h : crCheck binary32 r.crStage r.constM = none) :
    AccSound { r with cr := crCommit binary32 r } := by
  obtain ⟨hfin, hnonneg⟩ := osfIn_of_crCheck h
  obtain ⟨hrfin, hrnonneg⟩ := crDerive_ratio hfin hnonneg
  refine crUnitReset_accSound (r := { r with cr := { r.cr with
    live := r.crStage, derived := crDerive binary32 r.crStage, cm := r.constM, cpt := r.constPt
    tab := phaseTable binary32 r.crStage } }) ?_
  exact ⟨hr.acc_nonneg, hfin, hnonneg, hrfin, hrnonneg⟩

/-- The rule of every command but `CORE_RESET` keeps the accumulator sound. -/
theorem commandEnd_accSound {i : Instr} (hi : i ≠ .coreReset) {r : Regs F32} (hr : AccSound r) :
    AccSound (commandEnd binary32 i r).regs := by
  cases i
  case coreReset => contradiction
  case nop => exact hr
  case crConfig =>
    simp only [commandEnd, crConfigCmd]
    split
    case h_1 => exact hr.congr rfl rfl rfl
    case h_2 hcheck => exact crCommit_accSound hr hcheck
  case crReset => exact needCr_elim hr (crUnitReset_accSound hr)
  case crPush => exact needCr_elim hr (awaitOrEmit_accSound (sampleTaken_accSound hr))
  case itrpCoef | itrpEval =>
    refine needCr_elim hr ?_
    split
    · exact hr
    · rw [regs_done]; exact hr.congr rfl rfl rfl
  case tedEval =>
    refine needCr_elim hr ?_
    rw [regs_done]; exact hr.congr rfl rfl rfl
  case pllConfig =>
    simp only [commandEnd, pllConfigCmd]
    split <;> exact hr.of_cr_eq rfl
  case pllReset => exact needPll_elim hr (hr.of_cr_eq rfl)
  case pllPush | pedEval => exact needPll_elim hr (hr.of_cr_eq (noteNonfiniteC_cr _ _ _))
  case lfStep | ncoStep => exact needPll_elim hr (hr.of_cr_eq (noteNonfiniteR_cr _ _ _))

theorem finish_accSound (w : Word) {e : CmdEnd F32} (he : AccSound e.regs) : AccSound (finish w e) :=
  he.of_cr_eq (finish_cr w e)

/-- Settles O27: a commit and a unit reset put `CR_ACC` at `OSF_in * 0.5`, a push guards it, and nothing else
writes it. -/
theorem accumulatorStaysNonnegative : Obligations.AccumulatorStaysNonnegative :=
  keptByStep_of accSound_reset (fun _ _ _ _ hr hstore => hr.of_cr_eq (storeReg_keeps hstore).1)
    (fun _ hr => hr.of_cr_eq rfl) (fun _ _ hi hr => finish_accSound _ (commandEnd_accSound hi hr))
    (fun w r hr => finish_accSound w (e := .raise .illegalCmd r) hr)

end Sys2Proof.Machine
end

section
/-! The host bus (20_memory.md): byte lanes, the offset that the core decodes, admitted reads and writes, and rejected
accesses. -/

namespace Sys2Proof

/-! ### Byte lanes -/

/-- Lane `k` is a quotient and a remainder of the word's number (R63). -/
theorem laneOf_toNat (w : Word) (k : Nat) : (laneOf w k).toNat = w.toNat / 2 ^ (8 * k) % 256 := by
  rw [laneOf, BitVec.extractLsb'_toNat, Nat.shiftRight_eq_div_pow]

/-- A slice of the word and the lane below it are one slice. -/
theorem extractLsb'_append_laneOf (w : Word) (len k : Nat) :
    w.extractLsb' (8 * (k + 1)) len ++ laneOf w k = w.extractLsb' (8 * k) (len + 8) :=
  BitVec.extractLsb'_append_extractLsb'_eq_extractLsb' rfl

/-- The four lanes in address order make up the word (R63). -/
theorem wordOfLanes_laneOf (w : Word) : wordOfLanes (laneOf w 0) (laneOf w 1) (laneOf w 2) (laneOf w 3) = w :=
  calc laneOf w 3 ++ laneOf w 2 ++ laneOf w 1 ++ laneOf w 0
      = w.extractLsb' 16 16 ++ laneOf w 1 ++ laneOf w 0 := by rw [laneOf, extractLsb'_append_laneOf w 8 2]
    _ = w.extractLsb' 8 24 ++ laneOf w 0 := by rw [extractLsb'_append_laneOf w 16 1]
    _ = w.extractLsb' 0 32 := extractLsb'_append_laneOf w 24 0
    _ = w := BitVec.extractLsb'_eq_self

/-- Settles O5: a lane is a slice of the word, so the slices side by side are the word. -/
theorem busLanesAreLittleEndian : Obligations.BusLanesAreLittleEndian :=
  fun w => ⟨wordOfLanes_laneOf w, fun k _ => laneOf_toNat w k⟩

/-- A command's word decodes to the command (R83). -/
theorem decode_encode (i : Instr) : decode (encode i) = .ok i := by
  cases i <;> rfl

/-- A command's opcode travels in the high lane, over three lanes of zeros (R63, R81). -/
theorem wordOfLanes_opcOf (i : Instr) : wordOfLanes 0#8 0#8 0#8 (opcOf i) = encode i := by
  cases i <;> rfl

/-- Those four lanes decode to the command. -/
theorem decodeLanes_opcOf (i : Instr) : decodeLanes [0#8, 0#8, 0#8, opcOf i] = .ok i := by
  rw [decodeLanes, wordOfLanes_opcOf, decode_encode]

/-- Settles O4: six commands by their opcode in the high lane; the two illegal words by evaluation. -/
theorem commandBytesDecode : Obligations.CommandBytesDecode :=
  ⟨decodeLanes_opcOf .crConfig, decodeLanes_opcOf .itrpEval, decodeLanes_opcOf .tedEval, decodeLanes_opcOf .pedEval,
    decodeLanes_opcOf .ncoStep, decodeLanes_opcOf .coreReset, rfl, rfl⟩

end Sys2Proof

namespace Sys2Proof.Machine

/-! ### The offset -/

/-- `BASE` is a page boundary (R61). -/
theorem base_mod : Config.base % 4096 = 0 := Nat.mul_mod_right ..

/-- Every offset of the window is reached at `BASE` plus it (R61). -/
theorem offsetOf_base_add {off : Nat} (h : off < 4096) : offsetOf (Config.base + off) = off :=
  (Nat.mul_add_mod ..).trans (Nat.mod_eq_of_lt h)

/-- An access sees no more of the address than its offset. -/
theorem accessed_congr {a b : Nat} (h : offsetOf a = offsetOf b) (n : Nat) : accessed a n = accessed b n := by
  rw [accessed, accessed, h]

theorem serve_read_congr {a b : Nat} (h : offsetOf a = offsetOf b) (r : Regs F32) (n : Nat) :
    serve r (.read a n) = serve r (.read b n) := by
  simp only [serve, busRead, accessed_congr h]

theorem serve_write_congr {a b : Nat} (h : offsetOf a = offsetOf b) (r : Regs F32) (n : Nat) (v : Word) :
    serve r (.write a n v) = serve r (.write b n v) := by
  simp only [serve, busWrite, accessed_congr h]

/-- A step depends on the oldest transaction through what serving it comes to. -/
theorem step_congr {s : State} {rest : List HostTxn} {x y : HostTxn} (h : serve s.regs x = serve s.regs y) :
    step { s with pending := x :: rest } = step { s with pending := y :: rest } := by
  simp only [step, h]

/-- Settles O16: accesses with one offset are served alike. -/
theorem onlyTheOffsetIsDecoded : Obligations.OnlyTheOffsetIsDecoded :=
  ⟨fun _ => offsetOf_base_add, base_mod, fun _ _ _ _ _ _ h =>
    ⟨step_congr (serve_write_congr h _ _ _), step_congr (serve_read_congr h _ _)⟩⟩

/-! ### Admitted and rejected accesses -/

/-- An access reaches a register exactly when it is one aligned word at the register's offset (R62, R66). -/
theorem accessed_eq_some_iff {addr n : Nat} {x : Reg} :
    accessed addr n = some x ↔ n = 4 ∧ offsetOf addr % 4 = 0 ∧ regOffset x = offsetOf addr := by
  constructor
  · intro h
    unfold accessed at h
    split at h
    case isTrue hw => exact ⟨hw.1, hw.2, regOffset_of_regAt h⟩
    case isFalse => cases h
  · rintro ⟨rfl, -, hx⟩
    exact accessed_of_offset hx.symm

/-- A register refuses a store exactly when the map marks it read-only (R66). -/
theorem storeReg_eq_none_iff (r : Regs F32) (x : Reg) (v : Word) : storeReg r x v = none ↔ hostWritable x = false := by
  cases x <;> simp [storeReg, hostWritable]

/-- A read at a register's offset returns what the register reads and changes no register (R65, R67). -/
theorem serve_read_reg (r : Regs F32) {addr : Nat} {x : Reg} (h : offsetOf addr = regOffset x) :
    serve r (.read addr 4) = .access r (some (readReg r x)) := by
  simp only [serve, busRead, accessed_of_offset h]

/-- A read that reaches no register is rejected and returns 0 (R66). -/
theorem serve_read_rejected (r : Regs F32) {addr n : Nat} (h : accessed addr n = none) :
    serve r (.read addr n) = .access (rejectAccess r) (some 0) := by
  simp only [serve, busRead, h]

/-- A write that reaches no register, or a read-only one, is rejected (R66). -/
theorem serve_write_rejected (r : Regs F32) {addr n : Nat} (v : Word)
    (h : ∀ x, accessed addr n = some x → hostWritable x = false) :
    serve r (.write addr n v) = .access (rejectAccess r) none := by
  cases ha : accessed addr n with
  | none => simp [serve, busWrite, ha]
  | some x =>
    have hro := h x ha
    have hcmd : x ≠ .cmd := by
      rintro rfl
      cases hro
    simp [serve, busWrite, ha, hcmd, (storeReg_eq_none_iff r x v).2 hro]

/-- Settles O17: each cause means that the access reaches no register, or a read-only one. -/
theorem rejectedAccessOnlySetsBusErr : Obligations.RejectedAccessOnlySetsBusErr := by
  refine fun s rest addr n v => ⟨fun hp hcause => step_of_access hp (serve_read_rejected _ ?_),
    fun hp hcause => step_of_access hp (serve_write_rejected _ v fun x hx => ?_)⟩
  · refine Option.eq_none_iff_forall_ne_some.2 fun x hx => ?_
    obtain ⟨hn, halign, hoff⟩ := accessed_eq_some_iff.1 hx
    rcases hcause with h | h | h
    · exact h hn
    · exact h halign
    · exact h x hoff
  · obtain ⟨hn, halign, hoff⟩ := accessed_eq_some_iff.1 hx
    rcases hcause with h | h | h
    · exact absurd hn h
    · exact absurd halign h
    · exact h x hoff

/-! ### What a read returns -/

/-- Inside an array `vget` is the element, whatever answers outside. -/
theorem vget_eq_getElem {α : Type} {n i : Nat} (d : α) (v : Vector α n) (h : i < n) : vget d v i = v[i] := by
  simp [vget, Vector.getD, h]

/-- Settles O18: the register map's items one by one, the array elements through `vget_eq_getElem`. -/
theorem readReturnsTheRegisterAndHasNoSideEffect : Obligations.ReadReturnsTheRegisterAndHasNoSideEffect := by
  refine ⟨fun s rest addr x hp haddr => step_of_access hp (serve_read_reg _ haddr),
    fun r => ⟨rfl, rfl, rfl, rfl, rfl, rfl, fun i => ?_, fun i => ?_, fun i => ?_⟩⟩
  all_goals
    simp only [List.map, readReg, enc32, vget_eq_getElem _ _ i.isLt]
    rfl

/-! ### What a write stores -/

/-- An array write that keeps a projection of the element keeps it at every index. -/
theorem vget_vput_keeps {α β : Type} {n : Nat} (f : α → β) (d : α) (v : Vector α n) (i j : Nat) {a : α}
    (h : f a = f (vget d v i)) : f (vget d (vput v i a) j) = f (vget d v j) := by
  by_cases hij : i = j
  · subst hij
    by_cases hi : i < n
    · rw [vget_vput_same d v i a hi, h]
    · simp [vget, Vector.getD, hi]
  · rw [vget_vput_ne d v i j a hij]

/-- A register that a host may write, but for `CMD` and `STATUS`, reads back the word stored (R65). -/
theorem readReg_storeReg_same {r t : Regs F32} {x : Reg} {v : Word} (hcmd : x ≠ .cmd) (hstatus : x ≠ .status)
    (h : storeReg r x v = some t) : readReg t x = v := by
  cases x <;> simp only [storeReg, Option.some.injEq, reduceCtorEq] at h <;> subst h
  case cmd => contradiction
  case status => contradiction
  case constPtI i | constPtQ i => simp only [readReg, vget_vput_same _ _ _ _ i.isLt, enc32, dec32]
  all_goals rfl

/-- What a read-only register reads lies in the units, the results and the error registers. -/
theorem readReg_of_readOnly {r t : Regs F32} {y : Reg} (hy : hostWritable y = false) (hcr : t.cr = r.cr)
    (hpll : t.pll = r.pll) (herrcode : t.errcode = r.errcode) (herrcmd : t.errcmd = r.errcmd) (hres : t.res = r.res)
    (hresE : t.resE = r.resE) : readReg t y = readReg r y := by
  cases y <;> simp only [hostWritable, reduceCtorEq] at hy <;>
    simp only [readReg, hcr, hpll, herrcode, herrcmd, hres, hresE]

/-- A store into an element of the constellation table leaves every other register's reading alone. -/
theorem readReg_storeReg_constPt {r t : Regs F32} {x y : Reg} {v : Word} {i : Fin Config.maxM}
    (hx : x = .constPtI i ∨ x = .constPtQ i) (h : storeReg r x v = some t) (hne : y ≠ x) :
    readReg t y = readReg r y := by
  rcases hx with rfl | rfl <;> simp only [storeReg, Option.some.injEq] at h <;> subst h <;> cases y
  case inl.constPtI j =>
    have hij : i.val ≠ j.val := fun hij => hne (congrArg _ (Fin.ext hij.symm))
    simp only [readReg, vget_vput_ne _ _ _ _ _ hij]
  case inl.constPtQ j => exact congrArg enc32 (vget_vput_keeps Cx.q _ _ _ _ rfl)
  case inr.constPtI j => exact congrArg enc32 (vget_vput_keeps Cx.i _ _ _ _ rfl)
  case inr.constPtQ j =>
    have hij : i.val ≠ j.val := fun hij => hne (congrArg _ (Fin.ext hij.symm))
    simp only [readReg, vget_vput_ne _ _ _ _ _ hij]
  all_goals rfl

/-- A store into any register but `STATUS` leaves every other register's reading alone (R65). -/
theorem readReg_storeReg_of_ne {r t : Regs F32} {x y : Reg} {v : Word} (hstatus : x ≠ .status)
    (h : storeReg r x v = some t) (hne : y ≠ x) : readReg t y = readReg r y := by
  cases hy : hostWritable y
  case false =>
    obtain ⟨hcr, hpll, herrcode, herrcmd, hres, hresE⟩ := storeReg_keeps h
    exact readReg_of_readOnly hy hcr hpll herrcode herrcmd hres hresE
  case true =>
    cases x <;> simp only [storeReg, Option.some.injEq, reduceCtorEq] at h <;> subst h
    case status => contradiction
    case cmd => rfl
    case constPtI i => exact readReg_storeReg_constPt (.inl rfl) rfl hne
    case constPtQ i => exact readReg_storeReg_constPt (.inr rfl) rfl hne
    all_goals
      cases y <;> try contradiction
      all_goals rfl

/-- Settles O19: the store reads back, every other register reads as before, and a store reaches no unit. -/
theorem writeStoresOneRegisterAndIsNotYetLive : Obligations.WriteStoresOneRegisterAndIsNotYetLive := by
  intro s rest addr x v hp haddr hrw hcmd hstatus
  obtain ⟨t, ht⟩ : ∃ t, storeReg s.regs x v = some t := by
    refine Option.ne_none_iff_exists'.1 fun hnone => ?_
    rw [storeReg_eq_none_iff, hrw] at hnone
    cases hnone
  obtain ⟨hcr, hpll, -⟩ := storeReg_keeps ht
  exact ⟨_, step_of_access hp (serve_write_reg haddr hcmd ht), rfl, rfl, readReg_storeReg_same hcmd hstatus ht,
    fun y => readReg_storeReg_of_ne hstatus ht, hcr, hpll⟩

end Sys2Proof.Machine
end

section
/-! Command words (30_encoding.md): the decoder is the encoder's inverse, and a word that is no command's. -/

namespace Sys2Proof

/-- The opcode map gives a command only at the command's own opcode (R83). -/
theorem eq_opcOf_of_instrOfOpc {opc : BitVec 8} {i : Instr} (h : instrOfOpc opc = some i) : opc = opcOf i := by
  unfold instrOfOpc at h
  split at h <;> cases h
  all_goals exact BitVec.eq_of_toNat_eq ‹_›

/-- A word is its two fields side by side (R81). -/
theorem opcField_append_rsvField (w : Word) : opcField w ++ rsvField w = w :=
  calc w.extractLsb' 24 8 ++ w.extractLsb' 0 24
      = w.extractLsb' 0 32 := BitVec.extractLsb'_append_extractLsb'_eq_extractLsb' rfl
    _ = w := BitVec.extractLsb'_eq_self

/-- A word that decodes has a zero reserved field, and its opcode is in the map (R80, R84). -/
theorem fields_of_decode {w : Word} {i : Instr} (h : decode w = .ok i) :
    rsvField w = 0#24 ∧ instrOfOpc (opcField w) = some i := by
  unfold decode at h
  split at h
  case isTrue => cases h
  case isFalse hrsv =>
    split at h <;> cases h
    exact ⟨not_not.1 hrsv, ‹_›⟩

/-- No other word decodes to a command: both fields of the word are the command's (R84). -/
theorem eq_encode_of_decode {w : Word} {i : Instr} (h : decode w = .ok i) : w = encode i := by
  obtain ⟨hrsv, hopc⟩ := fields_of_decode h
  rw [← opcField_append_rsvField w, hrsv, eq_opcOf_of_instrOfOpc hopc, encode]

/-- A word decodes to a command exactly when it is the command's word (R84). -/
theorem decode_eq_ok_iff (w : Word) (i : Instr) : decode w = .ok i ↔ w = encode i := by
  constructor
  · exact eq_encode_of_decode
  · rintro rfl
    exact decode_encode i

/-- A word that is no command's is refused (R85). -/
theorem decode_eq_error_of_ne_encode {w : Word} (h : ∀ i : Instr, w ≠ encode i) : ∃ e, decode w = .error e := by
  cases hw : decode w with
  | ok i => exact absurd (eq_encode_of_decode hw) (h i)
  | error e => exact ⟨e, rfl⟩

/-- Settles O1: the decoder inverts the encoder, and the fourteen words by evaluation. -/
theorem decodeSelectsExactlyTheOpcodeMap : Obligations.DecodeSelectsExactlyTheOpcodeMap :=
  ⟨decode_eq_ok_iff, rfl, rfl, rfl, rfl, rfl, rfl, rfl, rfl, rfl, rfl, rfl, rfl, rfl, rfl⟩

end Sys2Proof

namespace Sys2Proof.Machine

/-- A step that serves a word that is no command's. -/
theorem step_of_illegal {s : State} {x : HostTxn} {rest : List HostTxn} {w : Word} {e : DecodeError}
    (hp : s.pending = x :: rest) (h : serve s.regs x = .command w) (hw : decode w = .error e) :
    step s = .next { regs := illegalCommand w s.regs, pending := rest, reply := none } := by
  simp [step, hp, h, hw]

/-- What an illegal word leaves of the registers, written out (R252, R255). -/
theorem illegalCommand_eq {R : Type} (w : Word) (r : Regs R) :
    illegalCommand w r = { r with errcode := 1, errcmd := w, status := r.status ||| 1#32 } := rfl

/-- Settles O2: the offset of `CMD` hands the word to the decoder, which refuses it. -/
theorem illegalWordOnlyRaisesIllegalCmd : Obligations.IllegalWordOnlyRaisesIllegalCmd := by
  intro s rest addr w hp haddr hne
  obtain ⟨e, hw⟩ := decode_eq_error_of_ne_encode hne
  rw [step_of_illegal hp (serve_write_cmd _ w haddr) hw, illegalCommand_eq]

end Sys2Proof.Machine
end

section
/-! The fractional interpolator (40_interpolator.md): the taps by kind, the legal `tau`, the two commands, and the clock
loop's own `tau`. -/

namespace Sys2Proof.Machine

section
variable {R : Type} (N : Numerics R)

/-! ### The taps by kind -/

/-- The taps, as a case on the kind's word (R103 to R107). -/
theorem tap_eq (cr : CrUnit R) (tau : R) :
    tap N cr tau =
      if cr.live.kind = 0 then linearTap N tau else if cr.live.kind = 1 then csplineTap N tau
      else if cr.live.kind = 2 then lagrangeTap N (tapCount cr.live) (delayOf cr.live) tau
      else sincTap N cr.live.sincNph.toNat cr.tab tau := by
  simp only [show (cr.live.kind = 0) = (cr.live.kind.toNat = 0) from propext (word_eq_iff _ (by decide)),
    show (cr.live.kind = 1) = (cr.live.kind.toNat = 1) from propext (word_eq_iff _ (by decide)),
    show (cr.live.kind = 2) = (cr.live.kind.toNat = 2) from propext (word_eq_iff _ (by decide))]
  funext j
  unfold tap
  split <;> simp_all

/-- The taps of a `LINEAR` unit (R103). -/
theorem tap_linear {cr : CrUnit R} (h : cr.live.kind = 0) : tap N cr = linearTap N := by
  funext tau
  simp [tap_eq, h]

/-- The taps of a `CSPLINE` unit (R104). -/
theorem tap_cspline {cr : CrUnit R} (h : cr.live.kind = 1) : tap N cr = csplineTap N := by
  funext tau
  simp [tap_eq, h]

/-- The taps of a `LAGRANGE` unit (R105). -/
theorem tap_lagrange {cr : CrUnit R} (h : cr.live.kind = 2) :
    tap N cr = lagrangeTap N (tapCount cr.live) (delayOf cr.live) := by
  funext tau
  simp [tap_eq, h]

/-- The taps of a `SINC` unit (R107). -/
theorem tap_sinc {cr : CrUnit R} (h : cr.live.kind = 3) : tap N cr = sincTap N cr.live.sincNph.toNat cr.tab := by
  funext tau
  simp [tap_eq, h]

/-- The delay of `LAGRANGE` by its degree: degree 1 is the asymmetric case (R101). -/
theorem delayOf_lagrange {c : CrConf R} (h : c.kind = 2) :
    delayOf c = if c.deg = 1 then 0 else (c.deg.toNat + 1) / 2 := by
  have hdeg : c.deg.toNat = 1 ↔ c.deg = 1#32 := (word_eq_iff _ (by decide)).symm
  simp [delayOf_eq, tapCount_eq, h, hdeg]

/-- An index past the last row takes the last row (R107). -/
theorem phaseIndex_of_lt {nph : Nat} {tau : R}
    (h : N.lt (N.ofNat nph) (N.floor (N.add (N.mul tau (N.ofNat nph)) N.half)) = true) :
    phaseIndex N nph tau = nph := if_pos h

/-- An index within the table is the row's number (R107). -/
theorem phaseIndex_of_toNat {nph n : Nat} {tau : R}
    (h : N.lt (N.ofNat nph) (N.floor (N.add (N.mul tau (N.ofNat nph)) N.half)) = false)
    (hn : N.toNat? (N.floor (N.add (N.mul tau (N.ofNat nph)) N.half)) = some n) : phaseIndex N nph tau = n := by
  simp [phaseIndex, h, hn]

/-! ### A legal `tau`, and the two commands -/

/-- An array given by a function holds the function's values. -/
theorem vget_ofFn {α : Type} {n j : Nat} (d : α) (f : Fin n → α) (h : j < n) : vget d (Vector.ofFn f) j = f ⟨j, h⟩ := by
  rw [vget_eq_getElem d _ h, Vector.getElem_ofFn]

/-- An element of `COEF` as `ITRP_COEF` writes it: a tap below `K`, 0 from `K` on (R108). -/
theorem vget_coefOf (d : R) (cr : CrUnit R) (tau : R) {j : Nat} (h : j < Config.maxK) :
    vget d (coefOf N cr tau) j = if j < tapCount cr.live then tap N cr tau j else zeroOf N := vget_ofFn d _ h

variable {r : Regs R} (hcfg : r.cr.derived.cfgOk = 1)
include hcfg

/-- `CR_CFG_OK = 1`, in the form that the commands test (60_exceptions.md R256). -/
theorem configured_ne_zero : r.cr.derived.cfgOk ≠ 0 := by
  rw [hcfg]; decide

/-- `ITRP_COEF` with a legal `tau` writes `COEF` (R108). -/
theorem itrpCoefCmd_of_legal (htau : tauBad N r.opb = false) :
    itrpCoefCmd N r = .done { r with cr := { r.cr with coef := coefOf N r.cr r.opb } } := by
  rw [itrpCoefCmd, needCr_configured r _ (configured_ne_zero hcfg), htau, if_neg Bool.false_ne_true]

/-- `ITRP_EVAL` with a legal `tau` writes `RES` (R109). -/
theorem itrpEvalCmd_of_legal (htau : tauBad N r.opb = false) :
    itrpEvalCmd N r = .done { r with res := itrpEval N r.cr r.opb } := by
  rw [itrpEvalCmd, needCr_configured r _ (configured_ne_zero hcfg), htau, if_neg Bool.false_ne_true]

/-- Either command with any other `tau` raises (R108, R109). -/
theorem commandEnd_of_tauBad {i : Instr} (hi : i = .itrpCoef ∨ i = .itrpEval) (htau : tauBad N r.opb = true) :
    commandEnd N i r = .raise .tauRange r := by
  rcases hi with rfl | rfl
  · rw [commandEnd, itrpCoefCmd, needCr_configured r _ (configured_ne_zero hcfg), htau, if_pos rfl]
  · rw [commandEnd, itrpEvalCmd, needCr_configured r _ (configured_ne_zero hcfg), htau, if_pos rfl]

end

/-- The range of `tau` in binary32: 0 and 1 by their words (R111). -/
theorem tauBad_binary32 (tau : F32) :
    tauBad binary32 tau = (!f32Fin tau || f32Lt tau F32.zero || f32Lt ⟨0x3F800000#32⟩ tau) := by
  simp [tauBad]

/-- A legal `tau`, as the three tests of the commands (R108). -/
theorem tauBad_eq_false_iff {tau : F32} :
    tauBad binary32 tau = false ↔ f32Fin tau = true ∧ f32Lt tau F32.zero = false ∧ f32Lt ⟨0x3F800000#32⟩ tau = false := by
  simp [tauBad_binary32, and_assoc]

/-- Settles O38: such a `tau` is not legal, and the error end writes the three registers. -/
theorem tauOutOfRangeRaises : Obligations.TauOutOfRangeRaises := by
  intro s i hi hcfg hbad
  have htau : tauBad binary32 s.regs.opb = true := by simpa [tauBad_binary32, or_assoc] using hbad
  rw [exec_eq_command, command, commandEnd_of_tauBad binary32 hcfg hi htau]
  rfl

/-- Settles O35: the taps that the rule writes are `coefOf`, element by element. -/
theorem itrpCoefWritesTheTaps : Obligations.ItrpCoefWritesTheTaps := by
  intro s hcfg hfin hlo hhi
  have htau : tauBad binary32 s.regs.opb = false := tauBad_eq_false_iff.2 ⟨hfin, hlo, hhi⟩
  refine ⟨coefOf binary32 s.regs.cr s.regs.opb, ?_, fun j hj hk => ?_, fun j hj hk => ?_⟩
  · rw [exec_eq_command, command, commandEnd, itrpCoefCmd_of_legal binary32 hcfg htau, finish_done]
  · rw [vget_coefOf binary32 _ _ _ hj, if_neg (not_lt.2 hk), zeroOf_binary32]
  · rw [vget_coefOf binary32 _ _ _ hj, if_pos hk]

/-- Settles O37: the rule writes `itrp_eval` of the window. -/
theorem itrpEvalInterpolatesTheWindow : Obligations.ItrpEvalInterpolatesTheWindow := by
  intro s hcfg hfin hlo hhi
  have htau : tauBad binary32 s.regs.opb = false := tauBad_eq_false_iff.2 ⟨hfin, hlo, hhi⟩
  rw [exec_eq_command, command, commandEnd, itrpEvalCmd_of_legal binary32 hcfg htau, finish_done]
  simp only [itrpEval, sumTo, wEntry, oldestSlot, zeroC, zeroOf_binary32, binary32_add, binary32_mul]

/-- The constants of the `CSPLINE` taps, by their words (R104; 30_encoding.md R96). -/
theorem csplineConstants_binary32 :
    binary32.half = ⟨0x3F000000#32⟩ ∧ f32OfNat 2 = ⟨0x40000000#32⟩ ∧ f32OfNat 3 = ⟨0x40400000#32⟩ ∧
    f32OfNat 4 = ⟨0x40800000#32⟩ ∧ f32OfNat 5 = ⟨0x40A00000#32⟩ := by decide

/-- Settles O36: kind by kind, the formulas written out. -/
theorem tapsByKind : Obligations.TapsByKind := by
  intro cr tau
  refine ⟨fun h => ?linear, fun h => ?cspline, fun h => ?lagrange, fun h => ?sinc⟩
  case linear => simp [tapCount_eq, tap_linear binary32 h, h, linearTap]
  case cspline =>
    obtain ⟨hhalf, h2, h3, h4, h5⟩ := csplineConstants_binary32
    simp [tapCount_eq, tap_cspline binary32 h, h, csplineTap, csplineTapAt, hhalf, h2, h3, h4, h5]
  case lagrange =>
    have hcount : tapCount cr.live = cr.live.deg.toNat + 1 := by simp [tapCount_eq, h]
    refine ⟨hcount, fun j _ => ?_⟩
    rw [tap_lagrange binary32 h, ← delayOf_lagrange h, ← hcount]
    simp only [lagrangeTap, prodOver, oneOf_binary32, binary32_ofNat, binary32_add, binary32_sub, binary32_mul,
      binary32_div]
  case sinc =>
    refine ⟨by simp [tapCount_eq, h], fun hlt => ?_, fun n hlt hn => ?_⟩
    · funext j
      rw [tap_sinc binary32 h, sincTap, phaseIndex_of_lt binary32 hlt, zeroOf_binary32]
    · funext j
      rw [tap_sinc binary32 h, sincTap, phaseIndex_of_toNat binary32 hlt hn, zeroOf_binary32]

/-- Settles O39: the guarded accumulator is a number of at least 0, so one that is not above 1 lies between 0 and 1,
and is finite. -/
theorem emissionTauIsInRange : Obligations.EmissionTauIsInRange := by
  intro r z hr hle
  rw [accGuard_acc, takeSample_acc, oneOf_binary32, zeroOf_binary32] at hle ⊢
  have hnum : f32IsNaN (binary32.sub r.cr.loop.acc ⟨0x3F800000#32⟩) = false :=
    f32IsNaN_sub (zero_le_iff.1 hr.acc_nonneg).1 (by decide)
  have hge := zero_le_maxR hnum
  generalize maxR binary32 (binary32.sub r.cr.loop.acc ⟨0x3F800000#32⟩) F32.zero = a at hle hge ⊢
  obtain ⟨hnan, hpos⟩ := zero_le_iff.1 hge
  have hlt : f32Lt a F32.zero = false := by
    rw [← Bool.not_eq_true, f32Lt_iff]
    rintro ⟨-, -, hneg⟩
    exact absurd hneg (not_lt.2 hpos)
  have hfin : f32Fin a = true :=
    f32Fin_of_between (by decide) (by decide) hge (f32Le_of_not_lt (by decide) hnan hle)
  exact tauBad_eq_false_iff.2 ⟨hfin, hlt, hle⟩

end Sys2Proof.Machine
end

section
/-! The taps over the reals (40_interpolator.md R112): they sum to 1, and they are unit taps at the ends. -/

namespace Sys2Proof.Machine

/-- The four kinds, by their numbers (10_state.md R27). -/
theorem kind_cases {w : Word} (h : w.toNat ≤ 3) : w = 0 ∨ w = 1 ∨ w = 2 ∨ w = 3 := by
  simp only [show (w = 0) = (w.toNat = 0) from propext (word_eq_iff _ (by decide)),
    show (w = 1) = (w.toNat = 1) from propext (word_eq_iff _ (by decide)),
    show (w = 2) = (w.toNat = 2) from propext (word_eq_iff _ (by decide)),
    show (w = 3) = (w.toNat = 3) from propext (word_eq_iff _ (by decide))]
  omega

/-- The unit tap at `p` (R112). -/
noncomputable def unitTap (p j : Nat) : ℝ := if j = p then 1 else 0

/-! ### `LAGRANGE` -/

/-- A product over distinct indices is the real product (00_scope.md R17). -/
theorem prodOver_exact {js : List Nat} (hjs : js.Nodup) (a : Nat → ℝ) : prodOver exact js a = ∏ m ∈ js.toFinset, a m := by
  rw [List.prod_toFinset a hjs, List.prod_eq_foldl, List.foldl_map, prodOver, oneOf_exact]
  rfl

/-- A tap of `LAGRANGE` is the basis polynomial of its node at `p + tau` (R105). -/
theorem lagrangeTap_exact (k p : Nat) (tau : ℝ) (j : Nat) :
    lagrangeTap exact k p tau j =
      (Lagrange.basis (Finset.range k) (fun m : Nat => (m : ℝ)) j).eval ((p : ℝ) + tau) := by
  have hnodes : ((List.range k).filter (· ≠ j)).toFinset = (Finset.range k).erase j := by
    ext m
    simp [and_comm]
  rw [lagrangeTap, prodOver_exact (List.nodup_range.filter _), hnodes, Lagrange.basis, Polynomial.eval_prod]
  refine Finset.prod_congr rfl fun m _ => ?_
  simp [Lagrange.basisDivisor, div_eq_inv_mul]

/-- The nodes `0 .. K-1` are distinct (R105). -/
theorem nodes_injOn (s : Set Nat) : Set.InjOn (fun m : Nat => (m : ℝ)) s := Nat.cast_injective.injOn

/-- The basis polynomials sum to 1 (R112). -/
theorem sum_lagrangeTap_exact {k : Nat} (hk : 0 < k) (p : Nat) (tau : ℝ) :
    ∑ j ∈ Finset.range k, lagrangeTap exact k p tau j = 1 := by
  simp only [lagrangeTap_exact]
  rw [← Polynomial.eval_finsetSum, Lagrange.sum_basis (nodes_injOn _) (Finset.nonempty_range_iff.2 hk.ne'),
    Polynomial.eval_one]

/-- At a node `q` the taps are the unit tap at `q` (R105). -/
theorem lagrangeTap_exact_node {k p q j : Nat} {tau : ℝ} (hq : q < k) (hj : j < k) (h : (p : ℝ) + tau = q) :
    lagrangeTap exact k p tau j = unitTap q j := by
  rw [lagrangeTap_exact, h, unitTap]
  split
  case isTrue hjq =>
    subst hjq
    exact Lagrange.eval_basis_self (nodes_injOn _) (Finset.mem_range.2 hj)
  case isFalse hjq =>
    exact Lagrange.eval_basis_of_ne (v := fun m : Nat => (m : ℝ)) hjq (Finset.mem_range.2 hq)

/-! ### `SINC` -/

/-- An element of a phase row whose raw sum is not 0 (R106). -/
theorem vget_sincRow_exact {k nph p j : Nat} {fc : ℝ} (hk : k ≤ 32) (hj : j < k)
    (hsum : sumTo exact k (sincRaw exact k nph fc p) ≠ 0) (d : ℝ) :
    vget d (sincRow exact k nph fc p) j = sincRaw exact k nph fc p j / sumTo exact k (sincRaw exact k nph fc p) := by
  rw [sincRow, vget_ofFn d _ (lt_of_lt_of_le hj hk)]
  simp [hj, hsum]

/-- At an integer phase position `q` and `FC = 0.5` the raw taps are the unit tap at `q`: the sinc is 0 at every other
integer, and sinc and window are 1 at 0 (R106). -/
theorem sincRaw_exact_unit {k nph p q : Nat} (h : ((k / 2 : Nat) : ℝ) + p / nph = q) (j : Nat) :
    sincRaw exact k nph (1 / 2) p j = unitTap q j := by
  have hx : exact.sub (exact.ofNat j) (exact.add (exact.ofNat (k / 2)) (exact.div (exact.ofNat p) (exact.ofNat nph))) =
      (((j : ℤ) - q : ℤ) : ℝ) := by
    simp only [exact_sub, exact_add, exact_div, exact_ofNat, h]
    push_cast
    rfl
  have hone : exact.mul (exact.ofNat 2) (1 / 2) = 1 := by norm_num
  simp only [sincRaw, hx, hone, exact_mul, one_mul, unitTap]
  split
  case isTrue hjq =>
    subst hjq
    rw [sub_self, Int.cast_zero, sincU_exact_zero, hann_exact_zero (by rw [exact_ofNat]; positivity), one_mul]
  case isFalse hjq =>
    rw [sincU_exact_int (by omega), zero_mul]

/-- The unit tap sums to 1. -/
theorem sum_unitTap {k q : Nat} (hq : q < k) : ∑ j ∈ Finset.range k, unitTap q j = 1 := by
  simp [unitTap, hq]

/-- A `SINC` unit with `FC = 0.5`, the phase table of its configuration, and a shape that a commit admits (R106,
42_clock_recovery.md R151). -/
structure SincHalf (cr : CrUnit ℝ) : Prop where
  /-- The kind is `SINC`. -/
  kind : cr.live.kind = 3
  /-- The table is the configuration's. -/
  tab : cr.tab = phaseTable exact cr.live
  /-- `FC = 0.5`. -/
  fc : cr.live.sincFc = 1 / 2
  /-- `KS` is at least 4. -/
  k_ge : 4 ≤ cr.live.sincK.toNat
  /-- `KS` is at most 32. -/
  k_le : cr.live.sincK.toNat ≤ 32
  /-- `NPH` is not 0. -/
  nph_pos : 1 ≤ cr.live.sincNph.toNat
  /-- `NPH` is at most 256. -/
  nph_le : cr.live.sincNph.toNat ≤ 256

/-- Row `p <= NPH` of the table that a commit builds (R106). -/
theorem SincHalf.vget_tab {cr : CrUnit ℝ} (h : SincHalf cr) (d : Vector ℝ Config.maxK) {p : Nat}
    (hp : p ≤ cr.live.sincNph.toNat) :
    vget d cr.tab p = sincRow exact cr.live.sincK.toNat cr.live.sincNph.toNat (1 / 2) p := by
  have hrow : p < Config.maxNph + 1 := Nat.lt_succ_of_le (hp.trans h.nph_le)
  rw [h.tab, phaseTable, if_pos h.kind, vget_ofFn d _ hrow, if_pos hp, h.fc]

/-- A `tau` whose nearest row sits at an integer position `q` gets the unit tap at `q` (R107). -/
theorem SincHalf.tap_eq_unitTap {cr : CrUnit ℝ} (h : SincHalf cr) {tau : ℝ} {p q j : Nat}
    (hp : p ≤ cr.live.sincNph.toNat) (hphase : ⌊tau * cr.live.sincNph.toNat + 1 / 2⌋ = (p : ℤ))
    (hpos : ((cr.live.sincK.toNat / 2 : Nat) : ℝ) + p / cr.live.sincNph.toNat = q)
    (hq : q < cr.live.sincK.toNat) (hj : j < cr.live.sincK.toNat) : tap exact cr tau j = unitTap q j := by
  have hraw := sincRaw_exact_unit hpos
  have hsum : sumTo exact cr.live.sincK.toNat (sincRaw exact cr.live.sincK.toNat cr.live.sincNph.toNat (1 / 2) p) = 1 := by
    rw [funext hraw, sumTo_exact, sum_unitTap hq]
  rw [tap_sinc exact h.kind, sincTap, phaseIndex_exact hp hphase, h.vget_tab _ hp,
    vget_sincRow_exact h.k_le hj (by rw [hsum]; exact one_ne_zero), hsum, hraw, div_one]

/-! ### All kinds -/

/-- Settles O52: by kind, two sums of polynomials in `tau`, the sum of the basis polynomials, and a row divided by its
own sum. -/
theorem exactTapsSumToOne : Obligations.ExactTapsSumToOne := by
  refine ⟨fun cr tau hkind _ _ _ => ?_, fun k nph p fc hk hsum => ?_⟩
  · rw [sumTo_exact]
    rcases kind_cases (hkind.trans (by decide)) with h | h | h | h
    case inl => simp [tapCount_eq, tap_linear exact h, h, Finset.sum_range_succ, linearTap]
    case inr.inl =>
      have hcount : tapCount cr.live = 4 := by simp [tapCount_eq, h]
      simp only [hcount, tap_cspline exact h, Finset.sum_range_succ, Finset.sum_range_zero, csplineTap, csplineTapAt,
        zeroOf_exact, exact_ofNat, exact_half, exact_add, exact_sub, exact_mul]
      push_cast
      ring
    case inr.inr.inl =>
      have hk : 0 < tapCount cr.live := by simp [tapCount_eq, h]
      rw [tap_lagrange exact h, sum_lagrangeTap_exact hk]
    case inr.inr.inr =>
      rw [h] at hkind
      exact absurd hkind (by decide)
  · have hrow := fun j hj => vget_sincRow_exact (j := j) hk (Finset.mem_range.1 hj) hsum 0
    rw [sumTo_exact, Finset.sum_congr rfl hrow, ← Finset.sum_div, ← sumTo_exact, div_self hsum]

/-- `LINEAR` at the ends (R103). -/
theorem tap_linear_ends {cr : CrUnit ℝ} (h : cr.live.kind = 0) {j : Nat} (hj : j < 2) :
    tap exact cr 0 j = unitTap 0 j ∧ tap exact cr 1 j = unitTap 1 j := by
  rw [tap_linear exact h]
  interval_cases j <;> simp [linearTap, unitTap]

/-- `CSPLINE` at the ends (R104). -/
theorem tap_cspline_ends {cr : CrUnit ℝ} (h : cr.live.kind = 1) {j : Nat} (hj : j < 4) :
    tap exact cr 0 j = unitTap 1 j ∧ tap exact cr 1 j = unitTap 2 j := by
  rw [tap_cspline exact h]
  interval_cases j <;> norm_num [csplineTap, csplineTapAt, unitTap]

/-- `LAGRANGE` at the ends: `P` and `P + 1` are nodes, because the degree is at least 1 (R105). -/
theorem tap_lagrange_ends {cr : CrUnit ℝ} (h : cr.live.kind = 2) (hdeg : 1 ≤ cr.live.deg.toNat) {j : Nat}
    (hj : j < tapCount cr.live) :
    tap exact cr 0 j = unitTap (delayOf cr.live) j ∧ tap exact cr 1 j = unitTap (delayOf cr.live + 1) j := by
  have hcount : tapCount cr.live = cr.live.deg.toNat + 1 := by simp [tapCount_eq, h]
  have hdelay : delayOf cr.live = if tapCount cr.live = 2 then 0 else tapCount cr.live / 2 := by simp [delayOf_eq, h]
  have hnode : delayOf cr.live + 1 < tapCount cr.live := by
    rw [hdelay]
    split <;> omega
  rw [tap_lagrange exact h]
  exact ⟨lagrangeTap_exact_node (by omega) hj (by simp), lagrangeTap_exact_node hnode hj (by push_cast; rfl)⟩

/-- `SINC` at the ends: the first row sits at `K / 2` and the last at `K / 2 + 1` (R106). -/
theorem SincHalf.tap_ends {cr : CrUnit ℝ} (h : SincHalf cr) {j : Nat}
    (hj : j < cr.live.sincK.toNat) :
    tap exact cr 0 j = unitTap (cr.live.sincK.toNat / 2) j ∧
      tap exact cr 1 j = unitTap (cr.live.sincK.toNat / 2 + 1) j := by
  have hk := h.k_ge
  have hnph : (cr.live.sincNph.toNat : ℝ) ≠ 0 := by
    have := h.nph_pos
    positivity
  have hlast : ⌊(1 : ℝ) * cr.live.sincNph.toNat + 1 / 2⌋ = (cr.live.sincNph.toNat : ℤ) := by
    rw [one_mul, Int.floor_natCast_add]
    norm_num
  refine ⟨h.tap_eq_unitTap (p := 0) (Nat.zero_le _) (by norm_num) (by simp) (by omega) hj,
    h.tap_eq_unitTap (le_refl _) hlast ?_ (by omega) hj⟩
  rw [div_self hnph]
  push_cast
  rfl

/-- Settles O53: kind by kind, `P` and `P + 1` at the ends. -/
theorem exactTapsInterpolateAtTheEnds : Obligations.ExactTapsInterpolateAtTheEnds := by
  intro cr hkind hlagrange hsinc j hj
  rcases kind_cases hkind with h | h | h | h
  case inl =>
    have hcount : tapCount cr.live = 2 := by simp [tapCount_eq, h]
    have hdelay : delayOf cr.live = 0 := by simp [delayOf_eq, h]
    rw [hdelay]
    exact tap_linear_ends h (hcount ▸ hj)
  case inr.inl =>
    have hcount : tapCount cr.live = 4 := by simp [tapCount_eq, h]
    have hdelay : delayOf cr.live = 1 := by simp [delayOf_eq, h]
    rw [hdelay]
    exact tap_cspline_ends h (hcount ▸ hj)
  case inr.inr.inl => exact tap_lagrange_ends h (hlagrange h).1 hj
  case inr.inr.inr =>
    obtain ⟨htab, hfc, -, hk4, hk32, hnph, hnph256⟩ := hsinc h
    have hcount : tapCount cr.live = cr.live.sincK.toNat := by simp [tapCount_eq, h]
    have hdelay : delayOf cr.live = cr.live.sincK.toNat / 2 := by simp [delayOf_eq, hcount, h]
    rw [hdelay]
    exact SincHalf.tap_ends ⟨h, htab, hfc, hk4, hk32, hnph, hnph256⟩ (hcount ▸ hj)

end Sys2Proof.Machine
end

section
/-! The timing error detector (41_ted.md): the error by kind, `TED_EVAL`, and the nearest constellation point. -/

namespace Sys2Proof.Machine

section
variable {R : Type} (N : Numerics R)

/-! ### The error by kind, and the command -/

/-- `ted()`, as a case on the kind's word (R136). -/
theorem ted_eq (cr : CrUnit R) :
    ted N cr =
      if cr.live.ted = 0 then gardnerError N (sBack N cr 0) (sBack N cr 1) (sBack N cr 2)
      else if cr.live.ted = 1 then
        mmError N (sBack N cr 0) (sBack N cr 1) (crDecide N cr (sBack N cr 0)) (crDecide N cr (sBack N cr 1))
      else elError N (sBack N cr 1) (sBack N cr 3) := by
  simp only [show (cr.live.ted = 0) = (cr.live.ted.toNat = 0) from propext (word_eq_iff _ (by decide)),
    show (cr.live.ted = 1) = (cr.live.ted.toNat = 1) from propext (word_eq_iff _ (by decide))]
  unfold ted
  split <;> simp_all

/-- The error of a `GARDNER` unit (R132). -/
theorem ted_gardner {cr : CrUnit R} (h : cr.live.ted = 0) :
    ted N cr = gardnerError N (sBack N cr 0) (sBack N cr 1) (sBack N cr 2) := by
  simp [ted_eq, h]

/-- The error of an `MM` unit (R134). -/
theorem ted_mm {cr : CrUnit R} (h : cr.live.ted = 1) :
    ted N cr =
      mmError N (sBack N cr 0) (sBack N cr 1) (crDecide N cr (sBack N cr 0)) (crDecide N cr (sBack N cr 1)) := by
  simp [ted_eq, h]

/-- The error of an `EL` unit (R135). -/
theorem ted_el {cr : CrUnit R} (h : cr.live.ted = 2) : ted N cr = elError N (sBack N cr 1) (sBack N cr 3) := by
  simp [ted_eq, h]

/-- In a configured unit the command writes `ted()` to `RES_E` (R137). -/
theorem tedEvalCmd_configured {r : Regs R} (hcfg : r.cr.derived.cfgOk = 1) :
    tedEvalCmd N r = .done { r with resE := ted N r.cr } :=
  needCr_configured r _ (configured_ne_zero hcfg)

end

/-- An entry of the secondary window in binary32: the slot written out, `+0` outside the array (R131). -/
theorem sBack_binary32 (cr : CrUnit F32) (i : Nat) :
    sBack binary32 cr i = vget ⟨F32.zero, F32.zero⟩ cr.loop.s
      ((cr.loop.shead.toNat + cr.live.slen.toNat - 1 - i) % cr.live.slen.toNat) := by
  rw [sBack, slotBack, zeroC, zeroOf_binary32]

/-- The real part of `a * conj(b)` in binary32, in the order of R10. -/
theorem re_cmul_conj_binary32 (a b : Cx F32) :
    re (cmul binary32 a (conj binary32 b)) = f32Sub (f32Mul a.i b.i) (f32Mul a.q (f32Neg b.q)) := rfl

/-- `TED_EVAL` in a configured unit (R80, R137). -/
theorem exec_tedEval_configured {s : State} (hcfg : s.regs.cr.derived.cfgOk = 1) :
    exec .tedEval s = .next { s with regs := { s.regs with errcode := 0, resE := ted binary32 s.regs.cr } } := by
  rw [exec_eq_command, command, commandEnd, tedEvalCmd_configured binary32 hcfg, finish_done]

/-- Settles O40: kind by kind, the error that the rule writes is the formula written out. -/
theorem tedEvalComputesTheLiveKindsError : Obligations.TedEvalComputesTheLiveKindsError := by
  intro s hcfg
  rw [exec_tedEval_configured hcfg]
  refine ⟨fun h => ?gardner, fun h => ?mm, fun h => ?el⟩
  case gardner =>
    simp only [ted_gardner binary32 h, gardnerError, re_cmul_conj_binary32, subC, sBack_binary32, binary32_sub]
  case mm =>
    simp only [ted_mm binary32 h, mmError, re_cmul_conj_binary32, crDecide, sBack_binary32, binary32_sub]
  case el =>
    simp only [ted_el binary32 h, elError, mag2, sBack_binary32, binary32_sub, binary32_add, binary32_mul]

/-! ### The nearest point -/

/-- The distance by which `nearest` compares point `i`, squared (R133). -/
def pointDist {R : Type} (N : Numerics R) (pts : Vector (Cx R) Config.maxM) (z : Cx R) (i : Nat) : R :=
  mag2 N (subC N z (constPoint N pts i))

/-- Of one point the nearest is that point. -/
theorem nearestIndex_one {R : Type} (N : Numerics R) (pts : Vector (Cx R) Config.maxM) (z : Cx R) :
    nearestIndex N 1 pts z = 0 := rfl

/-- One point more replaces the best of the points before it only by a strictly smaller distance (R133). -/
theorem nearestIndex_succ {R : Type} (N : Numerics R) {m : Nat} (hm : 1 ≤ m) (pts : Vector (Cx R) Config.maxM)
    (z : Cx R) :
    nearestIndex N (m + 1) pts z =
      if N.lt (pointDist N pts z m) (pointDist N pts z (nearestIndex N m pts z)) then m
      else nearestIndex N m pts z := by
  have hrange : List.range' 1 (m + 1 - 1) = List.range' 1 (m - 1) ++ [m] := by
    obtain ⟨n, rfl⟩ := Nat.exists_eq_add_of_le' hm
    rw [Nat.add_sub_cancel, Nat.add_sub_cancel, List.range'_1_concat, Nat.add_comm 1 n]
  rw [nearestIndex, hrange, List.foldl_append]
  rfl

/-- `k` is the lowest index below `m` at which `v` is least. -/
structure IsFirstMin (v : Nat → ℤ) (m k : Nat) : Prop where
  lt : k < m
  le : ∀ i < m, v k ≤ v i
  first : ∀ i < k, v k < v i

/-- One value more: it is the new first minimum when it is strictly smaller than the old one. -/
theorem IsFirstMin.succ {v : Nat → ℤ} {m k : Nat} (h : IsFirstMin v m k) :
    IsFirstMin v (m + 1) (if v m < v k then m else k) := by
  split
  case isTrue hlt =>
    have hbelow : ∀ i < m, v m < v i := fun i hi => hlt.trans_le (h.le i hi)
    exact ⟨m.lt_succ_self, Nat.forall_lt_succ_right.2 ⟨fun i hi => (hbelow i hi).le, le_rfl⟩, hbelow⟩
  case isFalse hge =>
    exact ⟨h.lt.trans m.lt_succ_self, Nat.forall_lt_succ_right.2 ⟨h.le, not_lt.1 hge⟩, h.first⟩

/-- `<` on two numbers is the order of their values. -/
theorem f32Lt_iff_of_numbers {a b : F32} (ha : f32IsNaN a = false) (hb : f32IsNaN b = false) :
    f32Lt a b = true ↔ f32ToInt a < f32ToInt b := by
  simp [f32Lt_iff, ha, hb]

/-- When no distance is NaN, the index of the nearest point is the first minimum of the distances (R133). -/
theorem isFirstMin_nearestIndex {m : Nat} (hm : 1 ≤ m) {pts : Vector (Cx F32) Config.maxM} {z : Cx F32}
    (hnum : ∀ i < m, f32IsNaN (pointDist binary32 pts z i) = false) :
    IsFirstMin (fun i => f32ToInt (pointDist binary32 pts z i)) m (nearestIndex binary32 m pts z) := by
  induction m, hm using Nat.le_induction with
  | base =>
    rw [nearestIndex_one]
    exact ⟨Nat.one_pos, fun i hi => by rw [Nat.lt_one_iff.1 hi], fun i hi => absurd hi i.not_lt_zero⟩
  | succ m hm ih =>
    have hbest := ih fun i hi => hnum i (hi.trans m.lt_succ_self)
    have hcompare := f32Lt_iff_of_numbers (hnum m m.lt_succ_self) (hnum _ (hbest.lt.trans m.lt_succ_self))
    simpa only [nearestIndex_succ binary32 hm, binary32_lt, hcompare] using hbest.succ

/-- Settles O41: the index of the nearest point is the first minimum of the distances. -/
theorem nearestPointIsClosestWithLowestIndex : Obligations.NearestPointIsClosestWithLowestIndex := by
  intro m pts z hm _ dist hnum
  have hmin := isFirstMin_nearestIndex hm hnum
  have hnumBest := hnum _ hmin.lt
  refine ⟨nearestIndex binary32 m pts z, hmin.lt, rfl, fun i hi => ?closest, fun i hi => ?farther⟩
  case closest => exact f32Le_iff.2 ⟨hnumBest, hnum i hi, hmin.le i hi⟩
  case farther => exact f32Lt_iff.2 ⟨hnumBest, hnum i (hi.trans hmin.lt), hmin.first i hi⟩

end Sys2Proof.Machine
end

section
/-! The configuration of the clock recovery unit (42_clock_recovery.md R150 to R156): the legal configurations, the code
that a commit reports, and what a commit and a unit reset write. -/

namespace Sys2Proof.Machine

/-! ### The legal configurations -/

/-- On numbers, not at most is above. -/
theorem f32Le_eq_false_iff {a b : F32} (ha : f32IsNaN a = false) (hb : f32IsNaN b = false) :
    f32Le a b = false ↔ f32Lt b a = true := by
  simp [f32Le, f32Lt, ha, hb]

/-- On numbers, not below is at least. -/
theorem f32Lt_eq_false_iff {a b : F32} (ha : f32IsNaN a = false) (hb : f32IsNaN b = false) :
    f32Lt a b = false ↔ f32Le b a = true := by
  simp [f32Le, f32Lt, ha, hb]

/-- A check passes when each of its tests does (R151). -/
theorem crCheck_eq_none_iff {R : Type} (N : Numerics R) (c : CrConf R) (m : Word) :
    crCheck N c m = none ↔
      itrpConfBad N c = false ∧ c.ted.toNat ≤ 2 ∧ (tapCount c ≤ c.wlen.toNat ∧ c.wlen.toNat ≤ 64) ∧
      (tedNpts c ≤ c.slen.toNat ∧ c.slen.toNat ≤ 8) ∧ loopConfBad N c = false ∧
      (c.ted = 1 → 1 ≤ m.toNat ∧ m.toNat ≤ 64) := by
  have hconst : constBad m = false ↔ 1 ≤ m.toNat ∧ m.toNat ≤ 64 := by
    simp only [constBad, Bool.or_eq_false_iff, decide_eq_false_iff_not, not_lt]
  simp only [crCheck, ite_eq_iff, reduceCtorEq, and_false, false_or, and_true, not_and, Bool.not_eq_true, hconst, not_or,
    not_lt]

/-- Tests 1 to 3 pass on the legal interpolator kinds and parameters (R151). -/
theorem itrpConfBad_eq_false_iff (c : CrConf F32) :
    itrpConfBad binary32 c = false ↔
      c.kind.toNat ≤ 3 ∧ (c.kind = 2 → 1 ≤ c.deg.toNat ∧ c.deg.toNat ≤ 31) ∧
      (c.kind = 3 → c.sincK.toNat % 2 = 0 ∧ 4 ≤ c.sincK.toNat ∧ c.sincK.toNat ≤ 32 ∧
        1 ≤ c.sincNph.toNat ∧ c.sincNph.toNat ≤ 256 ∧
        f32Fin c.sincFc = true ∧ f32Lt F32.zero c.sincFc = true ∧ f32Le c.sincFc ⟨0x3F000000#32⟩ = true) := by
  have hhalf : binary32.half = ⟨0x3F000000#32⟩ := rfl
  have hfc : f32Fin c.sincFc = true →
      (f32Le c.sincFc F32.zero = false ↔ f32Lt F32.zero c.sincFc = true) ∧
      (f32Lt ⟨0x3F000000#32⟩ c.sincFc = false ↔ f32Le c.sincFc ⟨0x3F000000#32⟩ = true) := fun hfin =>
    ⟨f32Le_eq_false_iff (f32IsNaN_of_fin hfin) (by decide), f32Lt_eq_false_iff (by decide) (f32IsNaN_of_fin hfin)⟩
  simp only [itrpConfBad, Bool.or_eq_false_iff, Bool.and_eq_false_imp, decide_eq_false_iff_not, decide_eq_true_eq,
    Bool.not_eq_false', binary32_fin, binary32_le, binary32_lt, zeroOf_binary32, hhalf, not_lt, not_and, not_or,
    Nat.mod_two_ne_one, and_assoc]
  grind

/-- `OSF_ted`, converted, by its word (R152). -/
theorem f32OfNat_tedOsf (c : CrConf F32) :
    f32OfNat (tedOsf c) = if c.ted = 1 then ⟨0x3F800000#32⟩ else ⟨0x40000000#32⟩ := by
  rw [tedOsf_eq]
  split <;> decide

/-- Test 7 passes on the legal loop parameters (R151). -/
theorem loopConfBad_eq_false_iff (c : CrConf F32) :
    loopConfBad binary32 c = false ↔
      f32Fin c.osfIn = true ∧ f32Lt F32.zero c.osfIn = true ∧ f32Fin c.tc = true ∧ f32Lt F32.zero c.tc = true ∧
      f32Le ⟨0x3F800000#32⟩ (f32Div c.osfIn (f32OfNat (tedOsf c))) = true := by
  have hosf : f32Fin (f32OfNat (tedOsf c)) = true ∧ f32Mag (f32OfNat (tedOsf c)) ≠ 0 := by
    rw [f32OfNat_tedOsf]
    split <;> decide
  have hpos : ∀ x : F32, f32Fin x = true → (f32Le x F32.zero = false ↔ f32Lt F32.zero x = true) := fun x hx =>
    f32Le_eq_false_iff (f32IsNaN_of_fin hx) (by decide)
  have hratio : f32Fin c.osfIn = true → (f32Lt (f32Div c.osfIn (f32OfNat (tedOsf c))) ⟨0x3F800000#32⟩ = false ↔
      f32Le ⟨0x3F800000#32⟩ (f32Div c.osfIn (f32OfNat (tedOsf c))) = true) := fun hx =>
    f32Lt_eq_false_iff (f32IsNaN_div hx hosf.1 hosf.2) (by decide)
  simp only [loopConfBad, Bool.or_eq_false_iff, Bool.not_eq_false', binary32_fin, binary32_le, binary32_lt, binary32_div,
    binary32_ofNat, zeroOf_binary32, oneOf_binary32, and_assoc]
  grind

/-- Settles O32: the check passes when its tests do, and each test passes on its legal range. -/
theorem crConfigAdmitsExactlyTheLegal : Obligations.CrConfigAdmitsExactlyTheLegal := by
  intro c m
  simp only [crCheck_eq_none_iff, itrpConfBad_eq_false_iff, loopConfBad_eq_false_iff, and_assoc]

/-! ### The code that a commit reports -/

/-- The code of the first test of a table that failed, or 0: a row is a test with its code (R151). -/
def firstFailed (tests : List (Bool × Nat)) : Nat := ((tests.find? (·.1)).map (·.2)).getD 0

@[simp] theorem firstFailed_nil : firstFailed [] = 0 := rfl

/-- A row decides unless its test passes. -/
@[simp] theorem firstFailed_cons (b : Bool) (n : Nat) (tests : List (Bool × Nat)) :
    firstFailed ((b, n) :: tests) = if b then n else firstFailed tests := by
  cases b <;> rfl

/-- Two rows in order with one code are one row. -/
theorem firstFailed_merge (a b : Bool) (n : Nat) (tests : List (Bool × Nat)) :
    firstFailed ((a, n) :: (b, n) :: tests) = firstFailed ((a || b, n) :: tests) := by
  cases a <;> simp

/-- The number that a check leaves in `ERRCODE`. -/
def reportedCode (check : Option ErrCode) : Nat := ((check.map errCodeWord).getD 0).toNat

@[simp] theorem reportedCode_none : reportedCode none = 0 := rfl

/-- A check's row in the table. -/
theorem reportedCode_ite (p : Prop) [Decidable p] (e : ErrCode) (rest : Option ErrCode) :
    reportedCode (if p then some e else rest) = if p then (errCodeWord e).toNat else reportedCode rest := by
  split <;> rfl

theorem constBad_iff (m : Word) : constBad m = true ↔ m.toNat < 1 ∨ 64 < m.toNat := by simp [constBad]

/-- Tests 1 to 3, as the three first rows of the table (R151). -/
theorem itrpConfBad_binary32 (c : CrConf F32) :
    itrpConfBad binary32 c =
      (decide (3 < c.kind.toNat) || (decide (c.kind = 2 ∧ (c.deg.toNat < 1 ∨ 31 < c.deg.toNat)) ||
        decide (c.kind = 3 ∧
          (c.sincK.toNat % 2 = 1 ∨ c.sincK.toNat < 4 ∨ 32 < c.sincK.toNat ∨
            c.sincNph.toNat < 1 ∨ 256 < c.sincNph.toNat ∨
            f32Fin c.sincFc = false ∨ f32Le c.sincFc F32.zero = true ∨ f32Lt ⟨0x3F000000#32⟩ c.sincFc = true)))) := by
  have hhalf : binary32.half = ⟨0x3F000000#32⟩ := rfl
  simp only [itrpConfBad, binary32_fin, binary32_le, binary32_lt, zeroOf_binary32, hhalf, Bool.decide_or,
    Bool.decide_and, Bool.decide_eq_true, Bool.decide_eq_false, Bool.or_assoc]

/-- Test 7, as the row of the table; the divisor by its words (R151). -/
theorem loopConfBad_binary32 (c : CrConf F32) :
    loopConfBad binary32 c =
      decide (f32Fin c.osfIn = false ∨ f32Le c.osfIn F32.zero = true ∨
        f32Fin c.tc = false ∨ f32Le c.tc F32.zero = true ∨
        f32Lt (f32Div c.osfIn (if c.ted = 1 then ⟨0x3F800000#32⟩ else ⟨0x40000000#32⟩)) ⟨0x3F800000#32⟩ = true) := by
  simp only [loopConfBad, binary32_fin, binary32_le, binary32_lt, binary32_div, binary32_ofNat, zeroOf_binary32,
    oneOf_binary32, f32OfNat_tedOsf, Bool.decide_or, Bool.decide_eq_true, Bool.decide_eq_false, Bool.or_assoc]

/-- Test 4 of the PLL check, as the row of its table (45_carrier_pll.md R221). -/
theorem pllGainBad_binary32 (c : PllConf F32) :
    pllGainBad binary32 c =
      decide ((c.order = 1 ∧ f32Fin c.alpha = false) ∨
        (c.order = 2 ∧ ¬(f32Fin c.bl = true ∧ f32Fin c.eta = true)) ∨ f32Fin c.w0 = false) := by
  simp only [pllGainBad, binary32_fin, Bool.decide_or, Bool.decide_and, Bool.decide_eq_true, Bool.decide_eq_false,
    decide_not, Bool.or_assoc]

/-- Settles O34: each check is its table, tested in order; `K`, `npts` and `osf` are cases on the words. -/
theorem commitReportsTheFirstFailingTest : Obligations.CommitReportsTheFirstFailingTest := by
  intro s m tableCode
  constructor
  case left =>
    intro c k npts osf
    have hk : k = tapCount c := (tapCount_eq c).symm
    have hnpts : npts = tedNpts c := (tedNpts_eq c).symm
    refine ⟨_, exec_eq_command _ _, ?_⟩
    rw [crConfig_errcode, hk, hnpts]
    change reportedCode (crCheck binary32 c s.regs.constM) = firstFailed _
    rw [firstFailed_merge, firstFailed_merge, Bool.or_assoc, ← itrpConfBad_binary32, ← loopConfBad_binary32]
    simp only [crCheck, reportedCode_ite, reportedCode_none, constBad_iff, firstFailed_cons, firstFailed_nil,
      decide_eq_true_eq]
    rfl
  case right =>
    intro c
    refine ⟨_, exec_eq_command _ _, ?_⟩
    rw [pllConfig_errcode]
    change reportedCode (pllCheck binary32 c s.regs.constM) = firstFailed _
    rw [← pllGainBad_binary32]
    simp only [pllCheck, reportedCode_ite, reportedCode_none, constBad_iff, firstFailed_cons, firstFailed_nil,
      decide_eq_true_eq]
    rfl

/-! ### What a commit writes -/

section
variable {R : Type} (N : Numerics R)

/-- A commit of a staging that its check rejects (R150). -/
theorem command_crConfig_of_some {r : Regs R} {code : ErrCode} (h : crCheck N r.crStage r.constM = some code) :
    command N .crConfig r = raiseCmdError code (encode .crConfig)
      { r with cr := { r.cr with derived := { r.cr.derived with cfgOk := 0 } } } := by
  simp only [command, commandEnd, crConfigCmd, h, finish_raise]

/-- A commit of a staging that its check admits (R150). -/
theorem command_crConfig_of_none {r : Regs R} (h : crCheck N r.crStage r.constM = none) :
    command N .crConfig r = { r with errcode := 0, cr := crCommit N r } := by
  simp only [command, commandEnd, crConfigCmd, h, finish_done]

/-- The PLL unit's twin of `command_crConfig_of_some` (45_carrier_pll.md R220). -/
theorem command_pllConfig_of_some {r : Regs R} {code : ErrCode} (h : pllCheck N r.pllStage r.constM = some code) :
    command N .pllConfig r = raiseCmdError code (encode .pllConfig) { r with pll := { r.pll with cfgOk := 0 } } := by
  simp only [command, commandEnd, pllConfigCmd, h, finish_raise]

/-- `CR_RESET` in a configured unit (R156). -/
theorem command_crReset_configured {r : Regs R} (h : r.cr.derived.cfgOk ≠ 0) :
    command N .crReset r = { r with errcode := 0, cr := crUnitReset N r.cr } := by
  rw [command, commandEnd, crResetCmd, needCr_configured r _ h, finish_done]

/-- `PLL_RESET` in a configured unit (45_carrier_pll.md R222). -/
theorem command_pllReset_configured {r : Regs R} (h : r.pll.cfgOk ≠ 0) :
    command N .pllReset r = { r with errcode := 0, pll := pllUnitReset N r.pll } := by
  rw [command, commandEnd, pllResetCmd, needPll_configured r _ h, finish_done]

end

/-- Settles O31: the error end of a command, over the unit whose `CFG_OK` the commit cleared. -/
theorem failedCommitLeavesTheUnitUnconfigured : Obligations.FailedCommitLeavesTheUnitUnconfigured := by
  intro s code
  refine ⟨fun h => ?_, fun h => ?_⟩
  · rw [exec_eq_command, command_crConfig_of_some binary32 h]
    rfl
  · rw [exec_eq_command, command_pllConfig_of_some binary32 h]
    rfl

/-- Settles O14: the loop states that the unit resets leave, with `0.5` by its word. -/
theorem unitResetsRewindTheLoops : Obligations.UnitResetsRewindTheLoops := by
  intro s
  refine ⟨fun h => ?_, fun h => ?_⟩
  · rw [exec_eq_command, command_crReset_configured binary32 (by rw [h]; decide), crUnitReset, zeroOf_binary32]
    rfl
  · rw [exec_eq_command, command_pllReset_configured binary32 (by rw [h]; decide), pllUnitReset, zeroOf_binary32]
    rfl

/-- An element of the phase table that a commit builds (40_interpolator.md R106). -/
theorem phaseTable_getElem {R : Type} (N : Numerics R) (c : CrConf R) (p : Fin 257) (j : Fin 32) :
    (phaseTable N c)[p][j] =
      if c.kind = 3 ∧ p.val ≤ c.sincNph.toNat ∧ j.val < c.sincK.toNat then
        if N.eq (sumTo N c.sincK.toNat (sincRaw N c.sincK.toNat c.sincNph.toNat c.sincFc p)) (zeroOf N) then
          sincRaw N c.sincK.toNat c.sincNph.toNat c.sincFc p j
        else N.div (sincRaw N c.sincK.toNat c.sincNph.toNat c.sincFc p j)
          (sumTo N c.sincK.toNat (sincRaw N c.sincK.toNat c.sincNph.toNat c.sincFc p))
      else zeroOf N := by
  by_cases hkind : c.kind = 3
  case neg =>
    rw [phaseTable, if_neg hkind, if_neg (fun h => hkind h.1)]
    simp
  case pos =>
    by_cases hp : p.val ≤ c.sincNph.toNat
    case neg => simp [phaseTable, hkind, hp]
    case pos => simp [phaseTable, hkind, hp, sincRow]

/-- The derived registers of a configuration in binary32, by cases on the words (R152, R153). -/
theorem crDerive_binary32 (c : CrConf F32) :
    crDerive binary32 c =
      { cfgOk := 1
        k := BitVec.ofNat 32 (tapCount c)
        delay := BitVec.ofNat 32 (delayOf c)
        npts := if c.ted = 0 then 3 else if c.ted = 1 then 2 else 4
        osfTed := if c.ted = 1 then 1 else 2
        ratio := f32Div c.osfIn (if c.ted = 1 then ⟨0x3F800000#32⟩ else ⟨0x40000000#32⟩)
        g := f32Mul c.osfIn (f32Sub ⟨0x3F800000#32⟩
          (Config.exp (f32Sub F32.zero (f32Div ⟨0x3F800000#32⟩ (f32Mul c.tc c.osfIn))))) } := by
  have hnpts : BitVec.ofNat 32 (tedNpts c) = if c.ted = 0 then 3 else if c.ted = 1 then 2 else 4 := by
    rw [tedNpts_eq]
    split_ifs <;> rfl
  have hosf : BitVec.ofNat 32 (tedOsf c) = if c.ted = 1 then 1 else 2 := by
    rw [tedOsf_eq]
    split <;> rfl
  have hexp : binary32.exp = Config.exp := rfl
  simp only [crDerive, loopGain, hnpts, hosf, hexp, f32OfNat_tedOsf, binary32_ofNat, binary32_div, binary32_mul, binary32_sub,
    oneOf_binary32, zeroOf_binary32]

/-- Settles O29: the commit's own formulas, the shape by cases on the words and the constants by their words. -/
theorem crConfigCommits : Obligations.CrConfigCommits := by
  intro s h c k delay one pi fc2 sincU' half hann' offsetAt tapOf rowSum
  have hk : tapCount c = k := tapCount_eq c
  have hdelay : delayOf c = delay := by rw [delayOf_eq, hk]
  refine ⟨phaseTable binary32 c, ?_, fun p j => ?_⟩
  · rw [exec_eq_command, command_crConfig_of_none binary32 h, crCommit, crUnitReset, crDerive_binary32, hk, hdelay,
      zeroOf_binary32]
    rfl
  · rw [phaseTable_getElem]
    by_cases hkind : c.kind = 3
    case neg => rw [if_neg (fun h => hkind h.1), if_neg (fun h => hkind h.1), zeroOf_binary32]
    case pos =>
      have hsinc : c.sincK.toNat = k := by rw [← hk]; simp [tapCount_eq, hkind]
      have htap : ∀ p j, sincRaw binary32 k c.sincNph.toNat c.sincFc p j = tapOf p j := by
        intro p j
        have htwo : f32OfNat 2 = ⟨0x40000000#32⟩ := by decide
        simp only [sincRaw, sincU, hann, binary32_ofNat, binary32_add, binary32_sub, binary32_mul, binary32_div,
          binary32_neg, binary32_lt, binary32_eq, oneOf_binary32, zeroOf_binary32, htwo]
        rfl
      have hsum : ∀ p, sumTo binary32 k (sincRaw binary32 k c.sincNph.toNat c.sincFc p) = rowSum p := by
        intro p
        simp only [sumTo, htap, zeroOf_binary32, binary32_add]
        rfl
      rw [hsinc, hsum, htap, zeroOf_binary32, binary32_eq, binary32_div]

/-! ### The soundness of the configured unit -/

/-- The windows of an admitted configuration have slots: they hold at least `K` and `npts` entries (R151). -/
theorem windows_pos_of_crCheck {c : CrConf F32} {m : Word} (h : crCheck binary32 c m = none) :
    0 < c.wlen.toNat ∧ 0 < c.slen.toNat := by
  obtain ⟨hitrp, -, ⟨hw, -⟩, ⟨hs, -⟩, -⟩ := (crCheck_eq_none_iff binary32 c m).1 h
  obtain ⟨hkind, -, hsinc⟩ := (itrpConfBad_eq_false_iff c).1 hitrp
  have hnpts : 0 < tedNpts c := by
    rw [tedNpts_eq]
    split_ifs <;> decide
  have htaps : 0 < tapCount c := by
    rw [tapCount_eq]
    split_ifs with h0 h1 h2
    · decide
    · decide
    · exact Nat.succ_pos _
    · obtain ⟨-, hge, -⟩ := hsinc (by bv_omega)
      exact lt_of_lt_of_le (by decide) hge
  exact ⟨htaps.trans_le hw, hnpts.trans_le hs⟩

/-- `OSF_ted` is 1 or 2 as a register too (R152). -/
theorem osfTed_toNat {R : Type} (N : Numerics R) (c : CrConf R) : (crDerive N c).osfTed.toNat = tedOsf c := by
  have hle : tedOsf c ≤ 2 := by
    rw [tedOsf_eq]
    split <;> decide
  exact Nat.mod_eq_of_lt (hle.trans_lt (by decide))

theorem tedOsf_pos {R : Type} (c : CrConf R) : 0 < tedOsf c := by
  rw [tedOsf_eq]
  split <;> decide

/-- `CrSound` speaks of the CR unit alone. -/
theorem CrSound.of_cr_eq {R : Type} {N : Numerics R} {r t : Regs R} (hr : CrSound N r) (h : t.cr = r.cr) :
    CrSound N t := by
  constructor <;> rw [h]
  exacts [hr.cfgOk_bit, hr.admitted, hr.derived_eq, hr.tab_eq, hr.whead_lt, hr.shead_lt, hr.cnt_lt]

/-- `COEF` is no part of it. -/
theorem CrSound.with_coef {R : Type} {N : Numerics R} {r : Regs R} (hr : CrSound N r) (coef : Vector R Config.maxK) :
    CrSound N { r with cr := { r.cr with coef := coef } } :=
  ⟨hr.cfgOk_bit, hr.admitted, hr.derived_eq, hr.tab_eq, hr.whead_lt, hr.shead_lt, hr.cnt_lt⟩

/-- A unit reset of a unit with an admitted configuration leaves it sound: every index is 0 (R155). -/
theorem crUnitReset_crSound {r : Regs F32} {u : CrUnit F32} (hcheck : crCheck binary32 u.live u.cm = none)
    (hderived : u.derived = crDerive binary32 u.live) (htab : u.tab = phaseTable binary32 u.live) :
    CrSound binary32 { r with cr := crUnitReset binary32 u } := by
  obtain ⟨hwlen, hslen⟩ := windows_pos_of_crCheck hcheck
  have hosf : 0 < u.derived.osfTed.toNat := by
    rw [hderived, osfTed_toNat]
    exact tedOsf_pos _
  exact
    { cfgOk_bit := .inr (congrArg CrDerived.cfgOk hderived)
      admitted := fun _ => hcheck
      derived_eq := fun _ => hderived
      tab_eq := fun _ => htab
      whead_lt := fun _ => hwlen
      shead_lt := fun _ => hslen
      cnt_lt := fun _ => hosf }

/-- A push keeps a sound configured unit sound: the configuration stays, and each index stays or moves to the next
slot of its buffer (R157, R160). -/
theorem PushKeeps.crSound {r t : Regs F32} (h : PushKeeps r.cr t.cr) (hr : CrSound binary32 r)
    (hcfg : r.cr.derived.cfgOk = 1) : CrSound binary32 t := by
  obtain ⟨hwlen, hslen⟩ := windows_pos_of_crCheck (hr.admitted hcfg)
  have hcnt := hr.cnt_lt hcfg
  constructor
  case cfgOk_bit => rw [h.derived]; exact hr.cfgOk_bit
  case admitted => rw [h.live, h.cm]; exact fun _ => hr.admitted hcfg
  case derived_eq => rw [h.live, h.derived]; exact fun _ => hr.derived_eq hcfg
  case tab_eq => rw [h.live, h.tab]; exact fun _ => hr.tab_eq hcfg
  case whead_lt => rw [h.live, h.whead]; exact fun _ => ringNext_lt _ _ hwlen
  case shead_lt =>
    rw [h.live]
    rcases h.shead with hs | hs <;> rw [hs]
    · exact fun _ => hr.shead_lt hcfg
    · exact fun _ => ringNext_lt _ _ hslen
  case cnt_lt =>
    rw [h.derived]
    rcases h.cnt with hc | hc <;> rw [hc]
    · exact fun _ => hcnt
    · exact fun _ => ringNext_lt _ _ (by omega)

/-- The rule of every command but `CORE_RESET` keeps the unit sound. -/
theorem commandEnd_crSound {i : Instr} (hi : i ≠ .coreReset) {r : Regs F32} (hr : CrSound binary32 r) :
    CrSound binary32 (commandEnd binary32 i r).regs := by
  have hcfg : r.cr.derived.cfgOk ≠ 0 → r.cr.derived.cfgOk = 1 := hr.cfgOk_bit.resolve_left
  cases i
  case coreReset => contradiction
  case nop => exact hr
  case crConfig =>
    simp only [commandEnd, crConfigCmd]
    split
    case h_1 => exact crSound_of_unconfigured rfl
    case h_2 hcheck => exact crUnitReset_crSound hcheck rfl rfl
  case crReset =>
    rw [commandEnd, crResetCmd, needCr_regs]
    split
    case isTrue => exact hr
    case isFalse h0 =>
      exact crUnitReset_crSound (hr.admitted (hcfg h0)) (hr.derived_eq (hcfg h0)) (hr.tab_eq (hcfg h0))
  case crPush =>
    rw [commandEnd, crPushCmd_eq, needCr_regs]
    split
    case isTrue => exact hr
    case isFalse h0 => exact (crPushCmd_keeps (needCr_configured r _ h0)).crSound hr (hcfg h0)
  case itrpCoef =>
    refine needCr_elim hr ?_
    split
    · exact hr
    · exact hr.with_coef _
  case itrpEval =>
    refine needCr_elim hr ?_
    split
    · exact hr
    · exact hr.of_cr_eq rfl
  case tedEval => exact needCr_elim hr (hr.of_cr_eq rfl)
  case pllConfig =>
    simp only [commandEnd, pllConfigCmd]
    split <;> exact hr.of_cr_eq rfl
  case pllReset => exact needPll_elim hr (hr.of_cr_eq rfl)
  case pllPush | pedEval => exact needPll_elim hr (hr.of_cr_eq (noteNonfiniteC_cr _ _ _))
  case lfStep | ncoStep => exact needPll_elim hr (hr.of_cr_eq (noteNonfiniteR_cr _ _ _))

theorem finish_crSound (w : Word) {e : CmdEnd F32} (he : CrSound binary32 e.regs) : CrSound binary32 (finish w e) :=
  he.of_cr_eq (finish_cr w e)

/-- Settles O25: a commit and a unit reset start the unit over under an admitted configuration, a push keeps it, and
nothing else writes it. -/
theorem crUnitStaysSound : Obligations.CrUnitStaysSound :=
  keptByStep_of (crSound_of_unconfigured rfl) (fun _ _ _ _ hr hstore => hr.of_cr_eq (storeReg_keeps hstore).1)
    (fun _ hr => hr.of_cr_eq rfl) (fun _ _ hi hr => finish_crSound _ (commandEnd_crSound hi hr))
    (fun w r hr => finish_crSound w (e := .raise .illegalCmd r) hr)

end Sys2Proof.Machine
end

section
/-! `CR_PUSH` (42_clock_recovery.md R157 to R162): what each of its three ends leaves, and the clamp of its correction. -/

namespace Sys2Proof.Machine

section
variable {R : Type} (N : Numerics R)

/-! ### The parts of a push, written out -/

/-- A conditional flag writes `STATUS` alone (10_state.md R25). -/
theorem setFlagIf_eq (c : Bool) (f : Flag) (r : Regs R) :
    setFlagIf c f r = { r with status := if c then r.status ||| flagMask f else r.status } := by
  cases c <;> rfl

/-- The guard writes `STATUS` and the accumulator alone (R158). -/
theorem accGuard_eq (r : Regs R) :
    accGuard N r = { r with
      status := if N.lt r.cr.loop.acc (zeroOf N) then r.status ||| 2#32 else r.status
      cr := { r.cr with loop := { r.cr.loop with
        acc := if N.lt r.cr.loop.acc (zeroOf N) then zeroOf N else r.cr.loop.acc } } } := by
  rcases accGuard_cases N r with ⟨hlt, h⟩ | ⟨hlt, h⟩ <;> rw [h, hlt] <;> rfl

/-- The first part of a push: the sanitized sample enters the window, the accumulator is decremented and guarded
(R157, R158). -/
theorem sampleTaken_eq (r : Regs R) :
    sampleTaken N r =
      let d := N.sub r.cr.loop.acc (oneOf N)
      let st := if finC N r.opa then r.status else r.status ||| 4#32
      { r with
        status := if N.lt d (zeroOf N) then st ||| 2#32 else st
        cr := { r.cr with loop := { r.cr.loop with
          w := vput r.cr.loop.w r.cr.loop.whead.toNat (sanitizeC N r.opa)
          whead := ringNext r.cr.loop.whead r.cr.live.wlen
          nin := r.cr.loop.nin + 1, outValid := 0
          acc := if N.lt d (zeroOf N) then zeroOf N else d } } } := by
  rw [sampleTaken, accGuard_eq, noteNonfiniteC, setFlagIf_eq]
  cases finC N r.opa <;> rfl

/-- The second part of an emission that completes a symbol (R161, R162). -/
theorem applySymbol_eq (e : R) (y : Cx R) (r : Regs R) :
    applySymbol N e y r =
      let dec := correction N r.cr e
      let a := N.sub r.cr.loop.acc dec
      let st := if N.isNaN (N.mul r.cr.derived.g e) then r.status ||| 4#32 else r.status
      { r with
        status := if N.lt a (zeroOf N) then st ||| 2#32 else st
        cr := { r.cr with loop := { r.cr.loop with
          acc := if N.lt a (zeroOf N) then zeroOf N else a
          theta := N.add r.cr.loop.theta dec, lastE := e, lastDec := dec
          out := y, outValid := 1, nout := r.cr.loop.nout + 1 } } } := by
  rw [applySymbol, setFlagIf_eq]
  simp only [accGuard_eq]
  rfl

/-! ### The three ends of a push -/

/-- While the accumulator is above 1 the push waits (R159). -/
theorem awaitOrEmit_of_above {r : Regs R} (h : N.lt (oneOf N) r.cr.loop.acc = true) : awaitOrEmit N r = r :=
  if_pos h

/-- An emission whose count does not return to 0 (R160). -/
theorem awaitOrEmit_of_between {r : Regs R} (h : N.lt (oneOf N) r.cr.loop.acc = false)
    (hcnt : ringNext r.cr.loop.cnt r.cr.derived.osfTed ≠ 0) :
    awaitOrEmit N r = emitSample N (itrpEval N r.cr r.cr.loop.acc) r := by
  rw [awaitOrEmit, h, if_neg Bool.false_ne_true]
  exact if_neg hcnt

/-- An emission whose count returns to 0: the symbol's (R161). -/
theorem awaitOrEmit_of_symbol {r : Regs R} (h : N.lt (oneOf N) r.cr.loop.acc = false)
    (hcnt : ringNext r.cr.loop.cnt r.cr.derived.osfTed = 0) :
    awaitOrEmit N r =
      let y := itrpEval N r.cr r.cr.loop.acc
      applySymbol N (ted N (emitSample N y r).cr) y (emitSample N y r) := by
  rw [awaitOrEmit, h, if_neg Bool.false_ne_true]
  exact if_pos hcnt

@[simp] theorem sampleTaken_cnt (r : Regs R) : (sampleTaken N r).cr.loop.cnt = r.cr.loop.cnt := by
  rw [sampleTaken_eq]

/-- The interpolation reads the window with the sample pushed, and no other part of the loop state (40_interpolator.md
R110). -/
theorem itrpEval_sampleTaken (r : Regs R) (tau : R) :
    itrpEval N (sampleTaken N r).cr tau = itrpEval N (pushW (sanitizeC N r.opa) r.cr) tau := by
  rw [sampleTaken_eq]
  rfl

/-- The detector reads the secondary window with the emission pushed, and no other part of the loop state (41_ted.md
R131). -/
theorem ted_emitSample_sampleTaken (y : Cx R) (r : Regs R) :
    ted N (emitSample N y (sampleTaken N r)).cr = ted N (pushS y (pushW (sanitizeC N r.opa) r.cr)) := by
  rw [sampleTaken_eq]
  rfl

/-- `CR_PUSH` in a configured unit (R157). -/
theorem command_crPush_configured {r : Regs R} (h : r.cr.derived.cfgOk = 1) :
    command N .crPush r = { awaitOrEmit N (sampleTaken N r) with errcode := 0 } := by
  rw [command, commandEnd, crPushCmd_eq, needCr_configured r _ (configured_ne_zero h), finish_done]

end

/-! ### The ends in binary32 -/

theorem sanitizeC_binary32 (z : Cx F32) :
    sanitizeC binary32 z = if f32Fin z.i && f32Fin z.q then z else ⟨F32.zero, F32.zero⟩ := by
  simp only [sanitizeC, finC, zeroC, zeroOf_binary32, binary32_fin]

/-- The correction, with the clamp's two comparisons written out (R161). -/
theorem correction_binary32 (u : CrUnit F32) (e : F32) :
    correction binary32 u e =
      let q := f32Mul u.live.osfIn ⟨0x3E800000#32⟩
      let raw := f32Mul u.derived.g e
      let v := if f32IsNaN raw then F32.zero else raw
      let v1 := if f32Lt v (f32Sub F32.zero q) then f32Sub F32.zero q else v
      if f32Lt q v1 then q else v1 := by
  have hquarter : binary32.quarter = ⟨0x3E800000#32⟩ := rfl
  simp only [correction, rawCorrection, clamp, minR, maxR, hquarter, zeroOf_binary32, binary32_mul, binary32_sub,
    binary32_lt, binary32_isNaN]

/-- The first part of a push in binary32. -/
theorem sampleTaken_binary32 (r : Regs F32) :
    sampleTaken binary32 r =
      let ok := f32Fin r.opa.i && f32Fin r.opa.q
      let d := f32Sub r.cr.loop.acc ⟨0x3F800000#32⟩
      let st := if ok then r.status else r.status ||| 4#32
      { r with
        status := if f32Lt d F32.zero then st ||| 2#32 else st
        cr := { r.cr with loop := { r.cr.loop with
          w := vput r.cr.loop.w r.cr.loop.whead.toNat (if ok then r.opa else ⟨F32.zero, F32.zero⟩)
          whead := ringNext r.cr.loop.whead r.cr.live.wlen
          nin := r.cr.loop.nin + 1, outValid := 0
          acc := if f32Lt d F32.zero then F32.zero else d } } } := by
  rw [sampleTaken_eq, finC, sanitizeC_binary32, oneOf_binary32, zeroOf_binary32]
  rfl

/-- The guarded accumulator, with the comparison written out (R158). -/
theorem sampleTaken_acc_binary32 (r : Regs F32) :
    (sampleTaken binary32 r).cr.loop.acc =
      let d := f32Sub r.cr.loop.acc ⟨0x3F800000#32⟩
      if f32Lt d F32.zero then F32.zero else d := by
  rw [sampleTaken_binary32]

/-- The correction of a finite `OSF_in`, not negative, lies within a quarter of it either way (R161). -/
theorem correction_between {u : CrUnit F32} (hfin : f32Fin u.live.osfIn = true)
    (hnonneg : f32Le F32.zero u.live.osfIn = true) (e : F32) :
    f32Le (f32Sub F32.zero (f32Mul u.live.osfIn binary32.quarter)) (correction binary32 u e) = true ∧
    f32Le (correction binary32 u e) (f32Mul u.live.osfIn binary32.quarter) = true := by
  obtain ⟨hqfin, hqnonneg⟩ :=
    f32Mul_scaled (c := binary32.quarter) hfin hnonneg (by decide) (by decide) (by decide)
  obtain ⟨hnegfin, hneg⟩ := f32Sub_zero_left hqfin
  have hq := (zero_le_iff.1 hqnonneg).2
  obtain ⟨v, hnum, hclamp⟩ := correction_eq_clamp u e
  rw [hclamp]
  exact clamp_between hnum hnegfin hqfin (by omega)

/-- A number above 1 is not below 0. -/
theorem not_neg_of_above_one {d : F32} (h : f32Lt ⟨0x3F800000#32⟩ d = true) : f32Lt d F32.zero = false := by
  have hone : 0 ≤ f32ToInt ⟨0x3F800000#32⟩ := by decide
  have hzero : f32ToInt F32.zero = 0 := by decide
  obtain ⟨-, -, hgt⟩ := f32Lt_iff.1 h
  rw [← Bool.not_eq_true, f32Lt_iff]
  omega

/-- Settles O42: above 1 the decremented accumulator needs no guard, and the push ends. -/
theorem crPushAwaitsAboveOne : Obligations.CrPushAwaitsAboveOne := by
  intro s hcfg ok z l a habove
  have hneg : f32Lt a F32.zero = false := not_neg_of_above_one habove
  have hacc : binary32.lt (oneOf binary32) (sampleTaken binary32 s.regs).cr.loop.acc = true := by
    rw [sampleTaken_acc_binary32, oneOf_binary32]
    exact (congrArg (f32Lt _) (if_neg (by rw [hneg]; exact Bool.false_ne_true))).trans habove
  rw [exec_eq_command, command_crPush_configured binary32 hcfg, awaitOrEmit_of_above binary32 hacc, sampleTaken_binary32]
  simp only [show f32Lt (f32Sub s.regs.cr.loop.acc ⟨0x3F800000#32⟩) F32.zero = false from hneg]
  rfl

/-- Settles O43: the emission at the guarded accumulator, and no more. -/
theorem crPushEmitsBetweenSymbols : Obligations.CrPushEmitsBetweenSymbols := by
  intro s hcfg ok z l d neg a u y cnt st habove hcnt
  have hacc : (sampleTaken binary32 s.regs).cr.loop.acc = a := sampleTaken_acc_binary32 _
  have hy : itrpEval binary32 (sampleTaken binary32 s.regs).cr a = y := by
    rw [itrpEval_sampleTaken, sanitizeC_binary32]
  rw [exec_eq_command, command_crPush_configured binary32 hcfg,
    awaitOrEmit_of_between binary32 (by rw [hacc, oneOf_binary32]; exact habove) (by simpa using hcnt), hacc, hy,
    sampleTaken_binary32]
  rfl

/-- Settles O44: the emission, and then the correction that it feeds. -/
theorem crPushCompletesASymbol : Obligations.CrPushCompletesASymbol := by
  intro s hcfg ok z l d neg a u y u2 e q raw v v1 dec a2 neg2 st st1 st2 habove hcnt
  have hacc : (sampleTaken binary32 s.regs).cr.loop.acc = a := sampleTaken_acc_binary32 _
  have hy : itrpEval binary32 (sampleTaken binary32 s.regs).cr a = y := by
    rw [itrpEval_sampleTaken, sanitizeC_binary32]
  have he : ted binary32 (emitSample binary32 y (sampleTaken binary32 s.regs)).cr = e := by
    rw [ted_emitSample_sampleTaken, sanitizeC_binary32]
  have hdec : correction binary32 (emitSample binary32 y (sampleTaken binary32 s.regs)).cr e = dec := by
    rw [correction_binary32, emitSample_cr_live, emitSample_cr_derived, sampleTaken_live, sampleTaken_derived]
  rw [exec_eq_command, command_crPush_configured binary32 hcfg,
    awaitOrEmit_of_symbol binary32 (by rw [hacc, oneOf_binary32]; exact habove) (by simpa using hcnt), hacc, hy]
  simp only [he, applySymbol_eq, hdec]
  rw [sampleTaken_binary32]
  simp only [emitSample, pushS, show ringNext s.regs.cr.loop.cnt s.regs.cr.derived.osfTed = 0 from hcnt]
  rfl

/-- Settles O45: the clamp of a number between two finite bounds of opposite sign. -/
theorem correctionIsClamped : Obligations.CorrectionIsClamped := by
  intro u e hfin hone
  have hnonneg : f32Le F32.zero u.live.osfIn = true := by
    obtain ⟨-, hnum, hge⟩ := f32Le_iff.1 hone
    have hpos : 0 ≤ f32ToInt ⟨0x3F800000#32⟩ := by decide
    exact zero_le_iff.2 ⟨hnum, hpos.trans hge⟩
  obtain ⟨hle, hge⟩ := correction_between hfin hnonneg e
  exact ⟨f32Fin_correction hfin hnonneg e, hle, hge⟩

end Sys2Proof.Machine
end

section
/-! Clock recovery over the reals (42_clock_recovery.md): the loop gain (R153), the accumulator that never clamps (R163),
and the number of output symbols (R164). -/

namespace Sys2Proof.Machine

/-! ### The loop gain -/

/-- Settles O56: with `x = 1/(tc * OSF_in)`, `0 < 1 - exp(-x) < x`. -/
theorem exactLoopGainBounds : Obligations.ExactLoopGainBounds := by
  intro osf tc hosf htc
  have hx : 0 < 1 / (tc * osf) := by positivity
  have hgain : loopGain exact osf tc = osf * (1 - Real.exp (-(1 / (tc * osf)))) := by
    simp only [loopGain, exact_mul, exact_sub, exact_div, exact_exp, oneOf_exact, zeroOf_exact, zero_sub]
  have hlo : Real.exp (-(1 / (tc * osf))) < 1 := Real.exp_lt_one_iff.2 (neg_lt_zero.2 hx)
  have hhi : 1 - Real.exp (-(1 / (tc * osf))) < 1 / (tc * osf) := by
    linarith [Real.add_one_lt_exp (neg_ne_zero.2 hx.ne')]
  rw [hgain]
  refine ⟨mul_pos hosf (sub_pos.2 hlo), ?_⟩
  calc osf * (1 - Real.exp (-(1 / (tc * osf)))) < osf * (1 / (tc * osf)) := mul_lt_mul_of_pos_left hhi hosf
    _ = 1 / tc := by field_simp

/-! ### The condition of R163 -/

/-- A unit with the derived registers of its configuration, under R163's condition. -/
structure HasRoom (u : CrUnit ℝ) : Prop where
  /-- The derived registers are the configuration's. -/
  derived_eq : u.derived = crDerive exact u.live
  /-- `OSF_in >= 2`. -/
  osf_ge : 2 ≤ u.live.osfIn
  /-- `OSF_in * (1/OSF_ted - 1/4) >= 1`. -/
  room : 1 ≤ u.live.osfIn * (1 / (tedOsf u.live : ℝ) - 1 / 4)

namespace HasRoom
variable {u v : CrUnit ℝ} (h : HasRoom u)
include h

theorem congr (hlive : v.live = u.live) (hderived : v.derived = u.derived) : HasRoom v :=
  ⟨by rw [hlive, hderived]; exact h.derived_eq, by rw [hlive]; exact h.osf_ge, by rw [hlive]; exact h.room⟩

theorem cfgOk : u.derived.cfgOk = 1 := by rw [h.derived_eq]; rfl

theorem osfTed : u.derived.osfTed.toNat = tedOsf u.live := by rw [h.derived_eq, osfTed_toNat]

theorem ratio_mul_osfTed : u.derived.ratio * tedOsf u.live = u.live.osfIn := by
  have hpos : (0 : ℝ) < tedOsf u.live := mod_cast tedOsf_pos u.live
  rw [h.derived_eq]
  exact div_mul_cancel₀ _ hpos.ne'

/-- The increment of an emission is at least 1 more than the largest correction. -/
theorem le_ratio : 1 + u.live.osfIn / 4 ≤ u.derived.ratio := by
  have hroom := h.room
  rw [h.derived_eq]
  change 1 + u.live.osfIn / 4 ≤ u.live.osfIn / (tedOsf u.live : ℝ)
  linarith [mul_one_div u.live.osfIn (tedOsf u.live : ℝ)]

/-- The accumulator after a reset is at most one increment. -/
theorem half_le_ratio : u.live.osfIn / 2 ≤ u.derived.ratio := by
  have hle : (tedOsf u.live : ℝ) ≤ 2 := by
    rw [tedOsf_eq]
    split <;> norm_num
  have hratio := h.le_ratio
  have hosf := h.osf_ge
  nlinarith [h.ratio_mul_osfTed]

end HasRoom

/-! ### A push that does not clamp -/

/-- The guard leaves an accumulator at or above 0 alone (R158). -/
theorem accGuard_of_nonneg {r : Regs ℝ} (h : 0 ≤ r.cr.loop.acc) : accGuard exact r = r := by
  refine if_neg ?_
  rw [zeroOf_exact, exact_lt]
  exact not_lt.2 h

/-- From 1 on the decrement needs no guard. -/
theorem sampleTaken_of_one_le {r : Regs ℝ} (h : 1 ≤ r.cr.loop.acc) :
    sampleTaken exact r = takeSample exact r.opa r := by
  refine accGuard_of_nonneg ?_
  rw [takeSample_acc, oneOf_exact, exact_sub, noteNonfiniteC_exact]
  linarith

/-- The correction over the reals: a clamp to a quarter of `OSF_in` either way (R161). -/
theorem correction_exact {u : CrUnit ℝ} (h : 0 ≤ u.live.osfIn) (e : ℝ) :
    correction exact u e = min (max (u.derived.g * e) (-(u.live.osfIn / 4))) (u.live.osfIn / 4) := by
  have hquarter : u.live.osfIn * (1 / 4) = u.live.osfIn / 4 := by ring
  simp only [correction, rawCorrection, exact_isNaN, exact_mul, exact_sub, exact_quarter, zeroOf_exact, zero_sub, hquarter,
    Bool.false_eq_true, if_false]
  exact clamp_exact (by linarith)

theorem correction_exact_le {u : CrUnit ℝ} (h : 0 ≤ u.live.osfIn) (e : ℝ) : correction exact u e ≤ u.live.osfIn / 4 := by
  rw [correction_exact h]
  exact min_le_right _ _

/-- An emission takes 1 off the accumulator and adds `RATIO` (R157, R160). -/
theorem emitSample_takeSample_acc (y z : Cx ℝ) (r : Regs ℝ) :
    (emitSample exact y (takeSample exact z r)).cr.loop.acc = r.cr.loop.acc - 1 + r.cr.derived.ratio := by
  rw [emitSample_acc, takeSample_acc, oneOf_exact]
  rfl

/-- No error, no correction. -/
theorem correction_exact_zero {u : CrUnit ℝ} (h : 0 ≤ u.live.osfIn) : correction exact u 0 = 0 := by
  rw [correction_exact h, mul_zero, max_eq_left (by linarith), min_eq_left (by linarith)]

/-- A symbol whose correction leaves the accumulator at or above 0 sets no flag and needs no guard (R161). -/
theorem applySymbol_of_le {e : ℝ} {r : Regs ℝ} (y : Cx ℝ) (h : correction exact r.cr e ≤ r.cr.loop.acc) :
    applySymbol exact e y r = { r with cr := { r.cr with loop := { r.cr.loop with
      acc := r.cr.loop.acc - correction exact r.cr e
      theta := r.cr.loop.theta + correction exact r.cr e, lastE := e, lastDec := correction exact r.cr e
      out := y, outValid := 1, nout := r.cr.loop.nout + 1 } } } := by
  have hlt : exact.lt (exact.sub r.cr.loop.acc (correction exact r.cr e)) (zeroOf exact) = false := by
    rw [← Bool.not_eq_true, exact_lt, exact_sub, zeroOf_exact]
    linarith
  rw [applySymbol_eq]
  simp only [hlt, exact_isNaN]
  rfl

/-- The three ends of a push over the reals, from an accumulator of at least 1. -/
theorem command_crPush_exact {r : Regs ℝ} (hcfg : r.cr.derived.cfgOk = 1) (hacc : 1 ≤ r.cr.loop.acc) :
    let q := takeSample exact r.opa r
    let y := itrpEval exact q.cr q.cr.loop.acc
    let cnt := ringNext r.cr.loop.cnt r.cr.derived.osfTed
    (1 < r.cr.loop.acc - 1 ∧ (command exact .crPush r) = { q with errcode := 0 }) ∨
    (r.cr.loop.acc - 1 ≤ 1 ∧ cnt ≠ 0 ∧ command exact .crPush r = { emitSample exact y q with errcode := 0 }) ∨
    (r.cr.loop.acc - 1 ≤ 1 ∧ cnt = 0 ∧ command exact .crPush r =
      { applySymbol exact (ted exact (emitSample exact y q).cr) y (emitSample exact y q) with errcode := 0 }) := by
  intro q y cnt
  rw [command_crPush_configured exact hcfg, sampleTaken_of_one_le hacc]
  have hq : q.cr.loop.acc = r.cr.loop.acc - 1 := by rw [takeSample_acc, oneOf_exact, exact_sub]
  rcases lt_or_ge 1 (r.cr.loop.acc - 1) with habove | habove
  · have hlt : exact.lt (oneOf exact) q.cr.loop.acc = true := by rw [hq, oneOf_exact, exact_lt]; exact habove
    exact .inl ⟨habove, by rw [awaitOrEmit_of_above exact hlt]⟩
  · have hlt : exact.lt (oneOf exact) q.cr.loop.acc = false := by
      rw [← Bool.not_eq_true, hq, oneOf_exact, exact_lt]
      exact not_lt.2 habove
    rcases ne_or_eq cnt 0 with hcnt | hcnt
    · exact .inr (.inl ⟨habove, hcnt, by rw [awaitOrEmit_of_between exact hlt hcnt]⟩)
    · exact .inr (.inr ⟨habove, hcnt, by rw [awaitOrEmit_of_symbol exact hlt hcnt]⟩)

/-- One push more. -/
theorem crPushAll_concat {R : Type} (N : Numerics R) (r : Regs R) (zs : List (Cx R)) (z : Cx R) :
    crPushAll N r (zs ++ [z]) = command N .crPush { crPushAll N r zs with opa := z } := by
  rw [crPushAll, List.foldl_append]
  rfl

/-! ### The accumulator never clamps -/

/-- What a push under R163's condition keeps: the configuration, the accumulator's bound, and `ACC_NEG`. -/
structure StaysAboveOne (r t : Regs ℝ) : Prop where
  /-- The live configuration stays. -/
  live : t.cr.live = r.cr.live
  /-- The derived registers stay. -/
  derived : t.cr.derived = r.cr.derived
  /-- The next decrement leaves the accumulator at or above 0. -/
  acc_ge : 1 ≤ t.cr.loop.acc
  /-- The guard has not clamped. -/
  flag : hasFlag .accNeg t = hasFlag .accNeg r

/-- A push from an accumulator of at least 1 stays at or above 1 (R163): a wait leaves it above 1, an emission adds
`RATIO` to a value at or above 0 and subtracts at most `OSF_in / 4`. -/
theorem command_crPush_staysAboveOne {r : Regs ℝ} (hroom : HasRoom r.cr) (hacc : 1 ≤ r.cr.loop.acc) :
    StaysAboveOne r (command exact .crPush r) := by
  have hratio := hroom.le_ratio
  have hosf : 0 ≤ r.cr.live.osfIn := by linarith [hroom.osf_ge]
  rcases command_crPush_exact hroom.cfgOk hacc with ⟨habove, h⟩ | ⟨-, -, h⟩ | ⟨-, -, h⟩ <;> rw [h]
  · refine ⟨rfl, rfl, ?_, rfl⟩
    change 1 ≤ (takeSample exact r.opa r).cr.loop.acc
    rw [takeSample_acc, oneOf_exact, exact_sub]
    exact habove.le
  · refine ⟨rfl, rfl, ?_, rfl⟩
    rw [emitSample_takeSample_acc]
    linarith
  · have hle : ∀ y e, correction exact (emitSample exact y (takeSample exact r.opa r)).cr e ≤
        (emitSample exact y (takeSample exact r.opa r)).cr.loop.acc - 1 := by
      intro y e
      have hdec : correction exact (emitSample exact y (takeSample exact r.opa r)).cr e ≤ r.cr.live.osfIn / 4 :=
        correction_exact_le hosf e
      rw [emitSample_takeSample_acc]
      linarith
    rw [applySymbol_of_le _ ((hle _ _).trans (sub_le_self _ zero_le_one))]
    exact ⟨rfl, rfl, le_sub_comm.1 (hle _ _), rfl⟩

/-- Settles O59: the bound holds after every push. -/
theorem exactAccumulatorNeverClamps : Obligations.ExactAccumulatorNeverClamps := by
  intro r zs hr hcfg hosf hroom hacc
  have hr : HasRoom r.cr := ⟨hr.derived_eq hcfg, hosf, hroom⟩
  have hall : StaysAboveOne r (crPushAll exact r zs) := by
    induction zs using List.reverseRecOn with
    | nil => exact ⟨rfl, rfl, by rw [crPushAll, List.foldl_nil]; linarith, rfl⟩
    | append_singleton zs z ih =>
      rw [crPushAll_concat]
      have hstep := command_crPush_staysAboveOne (r := { crPushAll exact r zs with opa := z })
        (hr.congr ih.live ih.derived) ih.acc_ge
      exact ⟨hstep.live.trans ih.live, hstep.derived.trans ih.derived, hstep.acc_ge, hstep.flag.trans ih.flag⟩
  exact ⟨hall.acc_ge, hall.flag⟩

/-! ### The number of output symbols -/

/-- A zero written into an array of zeros. -/
theorem vput_replicate {α : Type} {n : Nat} (a : α) (i : Nat) :
    vput (Vector.replicate n a) i a = Vector.replicate n a := by
  ext j hj
  simp [vput]

/-- The number of a head pointer's next value (00_scope.md R13). -/
theorem ringNext_toNat (h len : Word) (hl : 0 < len.toNat) : (ringNext h len).toNat = (h.toNat + 1) % len.toNat :=
  Nat.mod_eq_of_lt ((Nat.mod_lt _ hl).trans len.isLt)

/-- A window of zeros interpolates to 0 (40_interpolator.md R110). -/
theorem itrpEval_exact_zero {u : CrUnit ℝ} (h : u.loop.w = Vector.replicate _ ⟨0, 0⟩) (tau : ℝ) :
    itrpEval exact u tau = ⟨0, 0⟩ := by
  have hentry : ∀ k j, wEntry exact u k j = ⟨0, 0⟩ := fun k j => by rw [wEntry, h, zeroC_exact, vget_replicate]
  simp [itrpEval, hentry, sumTo_exact]

/-- A secondary window of zeros has no timing error, whatever the kind (41_ted.md R132, R134, R135). -/
theorem ted_exact_zero {u : CrUnit ℝ} (h : u.loop.s = Vector.replicate _ ⟨0, 0⟩) : ted exact u = 0 := by
  have hentry : ∀ i, sBack exact u i = ⟨0, 0⟩ := fun i => by rw [sBack, h, zeroC_exact, vget_replicate]
  have hgardner : gardnerError exact ⟨0, 0⟩ ⟨0, 0⟩ ⟨0, 0⟩ = 0 := by simp [gardnerError, re, cmul, subC, conj]
  have hmm : ∀ d0 d1, mmError exact ⟨0, 0⟩ ⟨0, 0⟩ d0 d1 = 0 := by simp [mmError, re, cmul, conj]
  have hel : elError exact ⟨0, 0⟩ ⟨0, 0⟩ = 0 := by simp [elError, mag2]
  simp only [ted_eq, hentry, hgardner, hmm, hel, ite_self]

/-- The unit `v` that `n` pushes of 0 have left of the unit `u` reset, but for the outputs: it has emitted `k` times,
each time 0. -/
structure IdleAfter (u : CrUnit ℝ) (n k : Nat) (v : CrUnit ℝ) : Prop where
  /-- The live configuration is `u`'s. -/
  live : v.live = u.live
  /-- The derived registers are `u`'s. -/
  derived : v.derived = u.derived
  /-- The window holds zeros. -/
  window : v.loop.w = Vector.replicate _ ⟨0, 0⟩
  /-- The secondary window holds zeros. -/
  secondary : v.loop.s = Vector.replicate _ ⟨0, 0⟩
  /-- Every push took 1 off the accumulator, every emission added `RATIO`. -/
  acc_eq : v.loop.acc = u.live.osfIn / 2 - n + k * u.derived.ratio
  /-- An emission starts from at most 1. -/
  acc_le : v.loop.acc ≤ 1 + u.derived.ratio
  /-- A wait ends above 1, an emission adds more than 1. -/
  acc_gt : 0 < n → 1 < v.loop.acc
  /-- The count is that of the emissions, modulo `OSF_ted`. -/
  cnt : v.loop.cnt.toNat = k % tedOsf u.live
  /-- A push emits at most once. -/
  emitted_le : k ≤ n

/-- The next count is that of one emission more. -/
theorem IdleAfter.ringNext_cnt {u v : CrUnit ℝ} {n k : Nat} (hu : HasRoom u) (h : IdleAfter u n k v) :
    (ringNext v.loop.cnt v.derived.osfTed).toNat = (k + 1) % tedOsf u.live := by
  rw [h.derived, ringNext_toNat _ _ (by rw [hu.osfTed]; exact tedOsf_pos _), hu.osfTed, h.cnt, Nat.mod_add_mod]

/-- A push that waits (R159). -/
theorem IdleAfter.wait {u : CrUnit ℝ} {n k : Nat} {r : Regs ℝ} (h : IdleAfter u n k r.cr)
    (habove : 1 < r.cr.loop.acc - 1) : IdleAfter u (n + 1) k (takeSample exact ⟨0, 0⟩ r).cr where
  live := h.live
  derived := h.derived
  window := by
    change vput r.cr.loop.w _ _ = _
    rw [h.window, vput_replicate]
  secondary := h.secondary
  acc_eq := by
    rw [takeSample_acc, oneOf_exact, exact_sub, h.acc_eq]
    push_cast
    ring
  acc_le := by
    rw [takeSample_acc, oneOf_exact, exact_sub]
    linarith [h.acc_le]
  acc_gt := fun _ => by
    rw [takeSample_acc, oneOf_exact, exact_sub]
    exact habove
  cnt := h.cnt
  emitted_le := h.emitted_le.trans n.le_succ

/-- A push up to the first part of an emission of 0 (R160). -/
theorem IdleAfter.emission {u : CrUnit ℝ} (hu : HasRoom u) {n k : Nat} {r : Regs ℝ} (h : IdleAfter u n k r.cr)
    (hacc : 1 ≤ r.cr.loop.acc) (habove : r.cr.loop.acc - 1 ≤ 1) :
    IdleAfter u (n + 1) (k + 1) (emitSample exact ⟨0, 0⟩ (takeSample exact ⟨0, 0⟩ r)).cr where
  live := h.live
  derived := h.derived
  window := by
    change vput r.cr.loop.w _ _ = _
    rw [h.window, vput_replicate]
  secondary := by
    change vput r.cr.loop.s _ _ = _
    rw [h.secondary, vput_replicate]
  acc_eq := by
    rw [emitSample_takeSample_acc, h.acc_eq, h.derived]
    push_cast
    ring
  acc_le := by
    rw [emitSample_takeSample_acc, h.derived]
    linarith
  acc_gt := fun _ => by
    rw [emitSample_takeSample_acc, h.derived]
    linarith [hu.le_ratio, hu.osf_ge]
  cnt := by
    change (ringNext r.cr.loop.cnt r.cr.derived.osfTed).toNat = _
    exact h.ringNext_cnt hu
  emitted_le := Nat.succ_le_succ h.emitted_le

/-- The outputs are no part of it, nor the sums of the errors. -/
theorem IdleAfter.congr {u v v' : CrUnit ℝ} {n k : Nat} (h : IdleAfter u n k v) (hlive : v'.live = v.live)
    (hderived : v'.derived = v.derived) (hw : v'.loop.w = v.loop.w) (hs : v'.loop.s = v.loop.s)
    (hacc : v'.loop.acc = v.loop.acc) (hcnt : v'.loop.cnt = v.loop.cnt) : IdleAfter u n k v' := by
  constructor
  case live => exact hlive.trans h.live
  case derived => exact hderived.trans h.derived
  case window => exact hw.trans h.window
  case secondary => exact hs.trans h.secondary
  case acc_eq => exact hacc.trans h.acc_eq
  case acc_le => rw [hacc]; exact h.acc_le
  case acc_gt => rw [hacc]; exact h.acc_gt
  case cnt => rw [hcnt]; exact h.cnt
  case emitted_le => exact h.emitted_le

/-- Before each push the accumulator is at least 1. -/
theorem IdleAfter.one_le {u v : CrUnit ℝ} {n k : Nat} (hu : HasRoom u) (h : IdleAfter u n k v) : 1 ≤ v.loop.acc := by
  rcases Nat.eq_zero_or_pos n with rfl | hn
  · obtain rfl := Nat.le_zero.1 h.emitted_le
    rw [h.acc_eq, Nat.cast_zero]
    linarith [hu.osf_ge]
  · exact (h.acc_gt hn).le

/-- One more push of 0: a wait, or an emission that completes a symbol when `OSF_ted` divides its number. -/
theorem command_crPush_idle {u : CrUnit ℝ} {n k : Nat} {r : Regs ℝ} (hu : HasRoom u) (h : IdleAfter u n k r.cr)
    (hout : r.cr.loop.nout.toNat = k / tedOsf u.live) (hz : r.opa = ⟨0, 0⟩) (hn : n + 1 < 2 ^ 32) :
    ∃ k', IdleAfter u (n + 1) k' (command exact .crPush r).cr ∧
      (command exact .crPush r).cr.loop.nout.toNat = k' / tedOsf u.live := by
  have hacc := h.one_le hu
  have hr := hu.congr h.live h.derived
  have hosf : 0 ≤ r.cr.live.osfIn := by linarith [hr.osf_ge]
  have hy : ∀ tau, itrpEval exact (takeSample exact ⟨0, 0⟩ r).cr tau = ⟨0, 0⟩ :=
    itrpEval_exact_zero (by change vput r.cr.loop.w _ _ = _; rw [h.window, vput_replicate])
  have hemit := h.emission hu hacc
  have hcnt : ringNext r.cr.loop.cnt r.cr.derived.osfTed = 0 ↔ tedOsf u.live ∣ k + 1 := by
    rw [Nat.dvd_iff_mod_eq_zero, ← h.ringNext_cnt hu]
    exact word_eq_iff _ (by decide)
  rcases command_crPush_exact hr.cfgOk hacc with ⟨habove, ht⟩ | ⟨habove, hnext, ht⟩ | ⟨habove, hnext, ht⟩ <;>
    rw [ht, hz]
  · exact ⟨k, h.wait habove, hout⟩
  · rw [hy]
    refine ⟨k + 1, hemit habove, ?_⟩
    rw [Nat.succ_div, if_neg (hcnt.not.1 hnext)]
    exact hout
  · have hemit := hemit habove
    have hdec : correction exact (emitSample exact ⟨0, 0⟩ (takeSample exact ⟨0, 0⟩ r)).cr 0 = 0 :=
      correction_exact_zero hosf
    rw [hy, ted_exact_zero hemit.secondary, applySymbol_of_le _ (by rw [hdec]; linarith [hemit.one_le hu]), hdec]
    refine ⟨k + 1, hemit.congr rfl rfl rfl rfl (sub_zero _) rfl, ?_⟩
    have hlt : k / tedOsf u.live + 1 < 2 ^ 32 :=
      (Nat.succ_le_succ ((Nat.div_le_self _ _).trans h.emitted_le)).trans_lt hn
    change (r.cr.loop.nout + 1#32).toNat = _
    rw [Nat.succ_div, if_pos (hcnt.1 hnext), BitVec.toNat_add, hout]
    exact Nat.mod_eq_of_lt hlt

/-- The number of emissions from the accumulator's bounds, and the number of symbols in them (R164). -/
theorem IdleAfter.floor_eq {u v : CrUnit ℝ} {n k : Nat} (hu : HasRoom u) (h : IdleAfter u n k v) (hn : 0 < n) :
    ⌊((n : ℝ) + 1 + u.derived.ratio - u.live.osfIn / 2) / u.live.osfIn⌋ = ((k / tedOsf u.live : ℕ) : ℤ) := by
  have hpos : 0 < u.derived.ratio := by linarith [hu.le_ratio, hu.osf_ge]
  have hlo := h.acc_gt hn
  have hhi := h.acc_le
  rw [h.acc_eq] at hlo hhi
  have hemitted : ⌊((n : ℝ) + 1 + u.derived.ratio - u.live.osfIn / 2) / u.derived.ratio⌋ = (k : ℤ) := by
    rw [Int.floor_eq_iff, le_div_iff₀ hpos, div_lt_iff₀ hpos, Int.cast_natCast, add_mul, one_mul]
    constructor <;> linarith
  nth_rw 2 [← hu.ratio_mul_osfTed]
  rw [← div_div, Int.floor_div_natCast, hemitted, Int.natCast_div]

/-- A reset unit has taken no sample yet (R155). -/
theorem idleAfter_crUnitReset {u : CrUnit ℝ} (hu : HasRoom u) : IdleAfter u 0 0 (crUnitReset exact u) := by
  have hacc : (crUnitReset exact u).loop.acc = u.live.osfIn / 2 := by
    change u.live.osfIn * (1 / 2) = _
    ring
  constructor
  case live => rfl
  case derived => rfl
  case window => rw [crUnitReset_loop, zeroOf_exact]; rfl
  case secondary => rw [crUnitReset_loop, zeroOf_exact]; rfl
  case acc_eq => rw [hacc]; simp
  case acc_le => rw [hacc]; linarith [hu.half_le_ratio]
  case acc_gt => exact fun hn => absurd hn (lt_irrefl 0)
  case cnt => exact (Nat.zero_mod _).symm
  case emitted_le => exact le_rfl

/-- Settles O60: by induction on the pushes, then the floor of the accumulator's bounds. -/
theorem exactOutputCount : Obligations.ExactOutputCount := by
  intro r n hr hcfg hosf hroom hn hlt
  have hr : HasRoom r.cr := ⟨hr.derived_eq hcfg, hosf, hroom⟩
  have hidle : ∀ n < 2 ^ 32, ∃ k,
      IdleAfter r.cr n k (crPushAll exact (command exact .crReset r) (List.replicate n ⟨0, 0⟩)).cr ∧
      (crPushAll exact (command exact .crReset r) (List.replicate n ⟨0, 0⟩)).cr.loop.nout.toNat =
        k / tedOsf r.cr.live := by
    intro n
    induction n with
    | zero =>
      intro _
      rw [command_crReset_configured exact (configured_ne_zero hcfg)]
      exact ⟨0, idleAfter_crUnitReset hr, (Nat.zero_div _).symm⟩
    | succ n ih =>
      intro hlt
      obtain ⟨k, hk, hout⟩ := ih (n.lt_succ_self.trans hlt)
      rw [List.replicate_succ', crPushAll_concat]
      exact command_crPush_idle hr hk hout rfl hlt
  obtain ⟨k, hk, hout⟩ := hidle n hlt
  rw [hout, hk.floor_eq hr hn]

end Sys2Proof.Machine
end

section
/-! The phase error detector (43_ped.md): the argument, the error by mode, `PED_EVAL`, and the error's bound over the
reals. -/

namespace Sys2Proof.Machine

section
variable {R : Type} (N : Numerics R)

/-! ### The error by mode, and the command -/

/-- The error of a `DEFAULT` unit (R182). -/
theorem ped_default {u : PllUnit R} (h : u.live.ped = 0) (y : Cx R) : ped N u y = arg N y := if_pos h

/-- The error of a `DD` unit (R183). -/
theorem ped_dd {u : PllUnit R} (h : u.live.ped ≠ 0) (y : Cx R) : ped N u y = ddError N y (pllDecide N u y) := if_neg h

/-- In `DEFAULT` mode the result is the sample (R185). -/
theorem pedRes_default {u : PllUnit R} (h : u.live.ped = 0) (y : Cx R) : pedRes N u y = y := if_pos h

/-- In `DD` mode the result is the decision (R185). -/
theorem pedRes_dd {u : PllUnit R} (h : u.live.ped ≠ 0) (y : Cx R) : pedRes N u y = pllDecide N u y := if_neg h

/-- A unit in `DD` mode is not in `DEFAULT` mode. -/
theorem not_default_of_dd {u : PllUnit R} (h : u.live.ped = 1) : u.live.ped ≠ 0 := by
  rw [h]; decide

/-- In a configured unit the command writes `ped()` of the sanitized operand to `RES_E` and the mode's result to `RES`,
and a non-finite operand sets its flag (R185). -/
theorem pedEvalCmd_configured {r : Regs R} (hcfg : r.pll.cfgOk = 1) :
    pedEvalCmd N r = .done { r with
      status := if finC N r.opa then r.status else r.status ||| 4#32
      resE := ped N r.pll (sanitizeC N r.opa)
      res := pedRes N r.pll (sanitizeC N r.opa) } := by
  rw [pedEvalCmd, needPll_configured r _ (by rw [hcfg]; decide), noteNonfiniteC, setFlagIf_eq]
  cases finC N r.opa <;> rfl

end

/-! ### `PED_EVAL` in binary32 -/

/-- The argument in binary32, with its test for `0c` written out (R181). -/
theorem arg_binary32 (z : Cx F32) :
    arg binary32 z = if f32Eq z.i F32.zero && f32Eq z.q F32.zero then F32.zero else Config.atan2 z.q z.i := by
  rw [arg, zeroOf_binary32, binary32_eq]
  rfl

/-- `a * conj(b)` in binary32, in the order of R10. -/
theorem cmul_conj_binary32 (a b : Cx F32) :
    cmul binary32 a (conj binary32 b) =
      ⟨f32Sub (f32Mul a.i b.i) (f32Mul a.q (f32Neg b.q)), f32Add (f32Mul a.i (f32Neg b.q)) (f32Mul a.q b.i)⟩ := rfl

/-- `PED_EVAL` in a configured unit (R80, R185). -/
theorem exec_pedEval_configured {s : State} (hcfg : s.regs.pll.cfgOk = 1) :
    exec .pedEval s = .next { s with regs := { s.regs with
      errcode := 0
      status := if f32Fin s.regs.opa.i && f32Fin s.regs.opa.q then s.regs.status else s.regs.status ||| 4#32
      resE := ped binary32 s.regs.pll (sanitizeC binary32 s.regs.opa)
      res := pedRes binary32 s.regs.pll (sanitizeC binary32 s.regs.opa) } } := by
  rw [exec_eq_command, command, commandEnd, pedEvalCmd_configured binary32 hcfg, finish_done, finC, binary32_fin]

/-- Settles O46: mode by mode, the error and the result that the rule writes are the formulas written out. -/
theorem pedEvalComputesTheLiveModesError : Obligations.PedEvalComputesTheLiveModesError := by
  intro s hcfg
  rw [exec_pedEval_configured hcfg]
  refine ⟨fun h => ?default, fun h => ?dd⟩
  case default =>
    simp only [ped_default binary32 h, pedRes_default binary32 h, arg_binary32, sanitizeC_binary32]
  case dd =>
    have h := not_default_of_dd h
    simp only [ped_dd binary32 h, pedRes_dd binary32 h, ddError, pllDecide, cmul_conj_binary32, arg_binary32,
      sanitizeC_binary32]

/-! ### The bound over the reals -/

/-- The argument over the reals lies in the principal range; at `0c`, where it is 0 by R181, as well. -/
theorem arg_exact_bounds (z : Cx ℝ) : -Real.pi < arg exact z ∧ arg exact z ≤ Real.pi := by
  rw [arg, zeroOf_exact, exact_atan2]
  split
  case isTrue => exact ⟨neg_lt_zero.2 Real.pi_pos, Real.pi_pos.le⟩
  case isFalse => exact ⟨Complex.neg_pi_lt_arg _, Complex.arg_le_pi _⟩

/-- Settles O55: in either mode the error is an argument, of the sample or of its product with the decision's
conjugate. -/
theorem exactPhaseErrorIsBounded : Obligations.ExactPhaseErrorIsBounded := by
  intro u y
  by_cases h : u.live.ped = 0
  · rw [ped_default exact h]
    exact arg_exact_bounds y
  · rw [ped_dd exact h]
    exact arg_exact_bounds (cmul exact y (conj exact (pllDecide exact u y)))

end Sys2Proof.Machine
end

section
/-! The loop filters and the NCO (44_loop_filter_nco.md): the update in each order, `LF_STEP` and `NCO_STEP`, and the
first-order step responses over the reals. -/

namespace Sys2Proof.Machine

section
variable {R : Type} (N : Numerics R)

/-! ### The update by order -/

/-- The increment of a first-order filter (R196). -/
theorem lfDelta_first {u : PllUnit R} (h : u.live.order = 1) (e : R) : lfDelta N u e = N.mul u.live.alpha e := if_pos h

/-- The increment of a second-order filter is the previous `mu` (R198). -/
theorem lfDelta_second {u : PllUnit R} (h : u.live.order ≠ 1) (e : R) : lfDelta N u e = u.loop.mu := if_neg h

/-- A first-order update moves the angle and keeps `mu` (R196). -/
theorem lfUpdate_first {u : PllUnit R} (h : u.live.order = 1) (e : R) :
    lfUpdate N u e = { u with loop := { u.loop with
      theta := wrapPi N (N.add u.loop.theta (N.mul u.live.alpha e)), eprev := e } } := by
  rw [lfUpdate, lfDelta_first N h, lfMu, if_pos h]

/-- A second-order update moves the angle by `mu`, and `mu` by the error and the previous error (R198). -/
theorem lfUpdate_second {u : PllUnit R} (h : u.live.order ≠ 1) (e : R) :
    lfUpdate N u e = { u with loop := { u.loop with
      theta := wrapPi N (N.add u.loop.theta u.loop.mu)
      mu := N.add u.loop.mu (N.mul u.gamma (N.sub (N.mul (N.add (oneOf N) u.rho) e) u.loop.eprev))
      eprev := e } } := by
  rw [lfUpdate, lfDelta_second N h, lfMu, if_neg h]

/-- A unit of order 2 is not of order 1. -/
theorem not_first_of_second {u : PllUnit R} (h : u.live.order = 2) : u.live.order ≠ 1 := by
  rw [h]; decide

/-- Updates keep the configuration, whatever errors the filter is fed. -/
theorem iterate_lfUpdate_live (f : PllUnit R → R) (u : PllUnit R) (n : Nat) :
    ((fun v => lfUpdate N v (f v))^[n] u).live = u.live := by
  induction n with
  | zero => rfl
  | succ n ih => rw [Function.iterate_succ_apply', lfUpdate_live, ih]

/-! ### The commands -/

/-- A sanitized real operand writes `STATUS` alone (60_exceptions.md R262). -/
theorem noteNonfiniteR_eq (e : R) (r : Regs R) :
    noteNonfiniteR N e r = { r with status := if N.fin e then r.status else r.status ||| 4#32 } := by
  rw [noteNonfiniteR, setFlagIf_eq]
  cases N.fin e <;> rfl

/-- In a configured unit `LF_STEP` writes the increment for the sanitized operand to `RES_E` and updates the filter
(R203). -/
theorem lfStepCmd_configured {r : Regs R} (hcfg : r.pll.cfgOk = 1) :
    lfStepCmd N r = .done { r with
      status := if N.fin r.opb then r.status else r.status ||| 4#32
      resE := lfDelta N r.pll (sanitizeR N r.opb)
      pll := lfUpdate N r.pll (sanitizeR N r.opb) } := by
  rw [lfStepCmd, needPll_configured r _ (by rw [hcfg]; decide), noteNonfiniteR_eq]

/-- In a configured unit `NCO_STEP` advances the phase by the sanitized operand and writes the carrier at the new phase
to `RES` (R206). -/
theorem ncoStepCmd_configured {r : Regs R} (hcfg : r.pll.cfgOk = 1) :
    ncoStepCmd N r = .done { r with
      status := if N.fin r.opb then r.status else r.status ||| 4#32
      res := carrier N (ncoAdvance N r.pll (sanitizeR N r.opb)).loop.phi
      pll := ncoAdvance N r.pll (sanitizeR N r.opb) } := by
  rw [ncoStepCmd, needPll_configured r _ (by rw [hcfg]; decide), noteNonfiniteR_eq]

end

/-! ### The commands in binary32 -/

theorem sanitizeR_binary32 (e : F32) : sanitizeR binary32 e = if f32Fin e then e else F32.zero := by
  rw [sanitizeR, zeroOf_binary32, binary32_fin]

/-- `wrap_pi` in binary32, with the words of `PI` and `TWO_PI` (00_scope.md R9, R11). -/
theorem wrapPi_binary32 (p : F32) :
    wrapPi binary32 p = f32Sub p (f32Mul ⟨0x40C90FDB#32⟩
      (f32Floor (f32Div (f32Add p ⟨0x40490FDB#32⟩) ⟨0x40C90FDB#32⟩))) := rfl

/-- The carrier in binary32 (R207). -/
theorem carrier_binary32 (phi : F32) : carrier binary32 phi = ⟨Config.cos phi, Config.sin phi⟩ := rfl

/-- `LF_STEP` in a configured unit (R80, R203). -/
theorem exec_lfStep_configured {s : State} (hcfg : s.regs.pll.cfgOk = 1) :
    exec .lfStep s = .next { s with regs := { s.regs with
      errcode := 0
      status := if f32Fin s.regs.opb then s.regs.status else s.regs.status ||| 4#32
      resE := lfDelta binary32 s.regs.pll (sanitizeR binary32 s.regs.opb)
      pll := lfUpdate binary32 s.regs.pll (sanitizeR binary32 s.regs.opb) } } := by
  rw [exec_eq_command, command, commandEnd, lfStepCmd_configured binary32 hcfg, finish_done, binary32_fin]

/-- `NCO_STEP` in a configured unit (R80, R206). -/
theorem exec_ncoStep_configured {s : State} (hcfg : s.regs.pll.cfgOk = 1) :
    exec .ncoStep s = .next { s with regs := { s.regs with
      errcode := 0
      status := if f32Fin s.regs.opb then s.regs.status else s.regs.status ||| 4#32
      res := carrier binary32 (ncoAdvance binary32 s.regs.pll (sanitizeR binary32 s.regs.opb)).loop.phi
      pll := ncoAdvance binary32 s.regs.pll (sanitizeR binary32 s.regs.opb) } } := by
  rw [exec_eq_command, command, commandEnd, ncoStepCmd_configured binary32 hcfg, finish_done, binary32_fin]

/-- Settles O47: order by order, the increment and the update that the rule writes are the formulas written out. -/
theorem lfStepUpdatesTheFilter : Obligations.LfStepUpdatesTheFilter := by
  intro s hcfg
  rw [exec_lfStep_configured hcfg]
  refine ⟨fun h => ?first, fun h => ?second⟩
  case first =>
    rw [lfDelta_first binary32 h, lfUpdate_first binary32 h, sanitizeR_binary32]
    rfl
  case second =>
    have h := not_first_of_second h
    rw [lfDelta_second binary32 h, lfUpdate_second binary32 h, sanitizeR_binary32, oneOf_binary32]
    rfl

/-- Settles O48: the advance that the rule makes is the sum written out, wrapped. -/
theorem ncoStepAdvancesThePhase : Obligations.NcoStepAdvancesThePhase := by
  intro s hcfg
  rw [exec_ncoStep_configured hcfg, ncoAdvance, carrier_binary32, wrapPi_binary32, sanitizeR_binary32]
  rfl

/-! ### The step responses over the reals -/

/-- `wrap_pi` over the reals is reduction modulo a turn into `[-PI, PI)` (00_scope.md R11). -/
theorem wrapPi_exact_eq_toIcoMod (p : ℝ) : wrapPi exact p = toIcoMod Real.two_pi_pos (-Real.pi) p := by
  rw [wrapPi_exact, toIcoMod, toIcoDiv_eq_floor, sub_neg_eq_add, zsmul_eq_mul, mul_comm]

/-- An angle in `[-PI, PI)` is not moved by `wrap_pi`. -/
theorem wrapPi_exact_of_mem {p : ℝ} (h : p ∈ Set.Ico (-Real.pi) Real.pi) : wrapPi exact p = p := by
  obtain ⟨hlo, hhi⟩ := h
  rw [wrapPi_exact_eq_toIcoMod, toIcoMod_eq_self]
  exact ⟨hlo, by linarith⟩

/-- Wrapping before an addition makes no difference to the wrapped sum. -/
theorem wrapPi_exact_wrapPi_add (p q : ℝ) : wrapPi exact (wrapPi exact p + q) = wrapPi exact (p + q) := by
  simp only [wrapPi_exact_eq_toIcoMod]
  refine (toIcoMod_eq_toIcoMod Real.two_pi_pos).2 ⟨toIcoDiv Real.two_pi_pos (-Real.pi) p, ?_⟩
  rw [add_sub_add_right_eq_sub, self_sub_toIcoMod]

/-- The angle after a first-order update over the reals (R196). -/
theorem lfUpdate_theta_exact {u : PllUnit ℝ} (h : u.live.order = 1) (e : ℝ) :
    (lfUpdate exact u e).loop.theta = wrapPi exact (u.loop.theta + u.live.alpha * e) := by
  rw [lfUpdate_first exact h]
  rfl

/-- Under the constant error 1 each update adds `alpha`, so the angle is the wrapped ramp (R197). -/
theorem iterate_lfUpdate_theta_of_one {u : PllUnit ℝ} (ho : u.live.order = 1) (ht : u.loop.theta = 0) (n : Nat) :
    ((fun v => lfUpdate exact v 1)^[n] u).loop.theta = wrapPi exact (n * u.live.alpha) := by
  induction n with
  | zero =>
    have hmem : (0 : ℝ) ∈ Set.Ico (-Real.pi) Real.pi := ⟨neg_nonpos.2 Real.pi_pos.le, Real.pi_pos⟩
    rw [Function.iterate_zero_apply, ht, Nat.cast_zero, zero_mul, wrapPi_exact_of_mem hmem]
  | succ n ih =>
    have hlive := iterate_lfUpdate_live exact (fun _ => 1) u n
    rw [Function.iterate_succ_apply', lfUpdate_theta_exact (by rw [hlive, ho]), hlive, ih, wrapPi_exact_wrapPi_add,
      mul_one, Nat.cast_succ, add_one_mul]

/-- With a gain in `[0, 2]` the step response stays in `[0, 2]`, below a half turn. -/
theorem stepResponse_mem {a : ℝ} (h0 : 0 ≤ a) (h2 : a ≤ 2) (n : Nat) :
    1 - (1 - a) ^ n ∈ Set.Ico (-Real.pi) Real.pi := by
  have hpow : |(1 - a) ^ n| ≤ 1 := by
    rw [abs_pow]
    exact pow_le_one₀ (abs_nonneg _) (abs_le.2 ⟨by linarith, by linarith⟩)
  have hpi := Real.pi_gt_three
  obtain ⟨hlo, hhi⟩ := abs_le.1 hpow
  constructor <;> linarith

/-- Fed its own residual, the filter keeps the share `1 - alpha` of the residual at each update (R197). -/
theorem iterate_lfUpdate_theta_of_residual {u : PllUnit ℝ} (ho : u.live.order = 1) (ht : u.loop.theta = 0)
    (h0 : 0 ≤ u.live.alpha) (h2 : u.live.alpha ≤ 2) (n : Nat) :
    ((fun v => lfUpdate exact v (1 - v.loop.theta))^[n] u).loop.theta = 1 - (1 - u.live.alpha) ^ n := by
  induction n with
  | zero => rw [Function.iterate_zero_apply, ht, pow_zero, sub_self]
  | succ n ih =>
    have hlive := iterate_lfUpdate_live exact (fun v => 1 - v.loop.theta) u n
    have hnext : 1 - (1 - u.live.alpha) ^ n + u.live.alpha * (1 - (1 - (1 - u.live.alpha) ^ n)) =
        1 - (1 - u.live.alpha) ^ (n + 1) := by ring
    rw [Function.iterate_succ_apply', lfUpdate_theta_exact (by rw [hlive, ho]), hlive, ih, hnext,
      wrapPi_exact_of_mem (stepResponse_mem h0 h2 _)]

/-- Settles O57: both responses by induction on the updates. -/
theorem exactFirstOrderStepResponse : Obligations.ExactFirstOrderStepResponse :=
  fun _ n ho ht =>
    ⟨iterate_lfUpdate_theta_of_one ho ht n, fun h0 h2 => iterate_lfUpdate_theta_of_residual ho ht h0 h2 n⟩

end Sys2Proof.Machine
end

section
/-! The isolation of the two units (45_carrier_pll.md R229): replacing one unit's state and staging commutes with every
command of the other. -/

namespace Sys2Proof.Machine

section
variable {R : Type} (N : Numerics R)

/-! ### Replacing a unit -/

/-- The registers with another carrier recovery unit and another staging of it. -/
def withPll (u : PllUnit R) (c : PllConf R) (r : Regs R) : Regs R := { r with pll := u, pllStage := c }

/-- The registers with another clock recovery unit and another staging of it. -/
def withCr (u : CrUnit R) (c : CrConf R) (r : Regs R) : Regs R := { r with cr := u, crStage := c }

/-- The end of a rule, with its registers changed by `f`. -/
def CmdEnd.map (f : Regs R → Regs R) : CmdEnd R → CmdEnd R
  | .done r => .done (f r)
  | .raise code r => .raise code (f r)

variable (pu : PllUnit R) (pc : PllConf R) (cu : CrUnit R) (cc : CrConf R)

/-- The end of a command writes neither unit and neither staging (30_encoding.md R80; 60_exceptions.md R252). -/
theorem finish_map_withPll (w : Word) (e : CmdEnd R) : finish w (e.map (withPll pu pc)) = withPll pu pc (finish w e) := by
  cases e <;> rfl

/-- The other unit's twin of `finish_map_withPll`. -/
theorem finish_map_withCr (w : Word) (e : CmdEnd R) : finish w (e.map (withCr cu cc)) = withCr cu cc (finish w e) := by
  cases e <;> rfl

/-- Whether the clock recovery unit is configured does not depend on the carrier recovery unit. -/
theorem needCr_withPll {r : Regs R} {a b : CmdEnd R} (h : a = b.map (withPll pu pc)) :
    needCr (withPll pu pc r) a = (needCr r b).map (withPll pu pc) := by
  by_cases h0 : r.cr.derived.cfgOk = 0
  · rw [needCr_unconfigured (withPll pu pc r) a h0, needCr_unconfigured r b h0]
    rfl
  · rw [needCr_configured (withPll pu pc r) a h0, needCr_configured r b h0, h]

/-- Whether the carrier recovery unit is configured does not depend on the clock recovery unit. -/
theorem needPll_withCr {r : Regs R} {a b : CmdEnd R} (h : a = b.map (withCr cu cc)) :
    needPll (withCr cu cc r) a = (needPll r b).map (withCr cu cc) := by
  by_cases h0 : r.pll.cfgOk = 0
  · rw [needPll_unconfigured (withCr cu cc r) a h0, needPll_unconfigured r b h0]
    rfl
  · rw [needPll_configured (withCr cu cc r) a h0, needPll_configured r b h0, h]

/-! ### The commands of the clock recovery unit -/

/-- The sample that a push takes enters a unit that is not replaced (42_clock_recovery.md R157). -/
theorem sampleTaken_withPll (r : Regs R) : sampleTaken N (withPll pu pc r) = withPll pu pc (sampleTaken N r) := by
  rw [sampleTaken_eq, sampleTaken_eq]
  rfl

/-- The decision of a push and its emission read and write a unit that is not replaced (42_clock_recovery.md R159 to
R161). -/
theorem awaitOrEmit_withPll (r : Regs R) : awaitOrEmit N (withPll pu pc r) = withPll pu pc (awaitOrEmit N r) := by
  cases habove : N.lt (oneOf N) r.cr.loop.acc
  case true => rw [awaitOrEmit_of_above N habove, awaitOrEmit_of_above N (r := withPll pu pc r) habove]
  case false =>
    by_cases hcnt : ringNext r.cr.loop.cnt r.cr.derived.osfTed = 0
    case neg =>
      rw [awaitOrEmit_of_between N habove hcnt, awaitOrEmit_of_between N (r := withPll pu pc r) habove hcnt]
      rfl
    case pos =>
      rw [awaitOrEmit_of_symbol N habove hcnt, awaitOrEmit_of_symbol N (r := withPll pu pc r) habove hcnt]
      simp only [applySymbol_eq]
      rfl

/-- The rule of a command of the clock recovery unit ends the same with another carrier recovery unit in place. -/
theorem commandEnd_withPll {i : Instr} (hi : i ∈ crCommands) (r : Regs R) :
    commandEnd N i (withPll pu pc r) = (commandEnd N i r).map (withPll pu pc) := by
  cases i
  case crConfig =>
    cases hcheck : crCheck N r.crStage r.constM <;> simp only [commandEnd, crConfigCmd, withPll, hcheck] <;> rfl
  case crReset | tedEval => exact needCr_withPll pu pc rfl
  case itrpCoef | itrpEval =>
    refine needCr_withPll pu pc ?_
    rw [apply_ite (CmdEnd.map (withPll pu pc))]
    rfl
  case crPush =>
    refine needCr_withPll pu pc (congrArg CmdEnd.done ?_)
    exact (congrArg (awaitOrEmit N) (sampleTaken_withPll N pu pc r)).trans (awaitOrEmit_withPll N pu pc _)
  all_goals exact absurd hi (by decide)

/-! ### The commands of the carrier recovery unit -/

/-- A flag is set in `STATUS`, which is not replaced. -/
theorem setFlagIf_withCr (b : Bool) (f : Flag) (r : Regs R) :
    setFlagIf b f (withCr cu cc r) = withCr cu cc (setFlagIf b f r) := by cases b <;> rfl

/-- The rule of a command of the carrier recovery unit ends the same with another clock recovery unit in place. -/
theorem commandEnd_withCr {i : Instr} (hi : i ∈ pllCommands) (r : Regs R) :
    commandEnd N i (withCr cu cc r) = (commandEnd N i r).map (withCr cu cc) := by
  cases i
  case pllConfig =>
    cases hcheck : pllCheck N r.pllStage r.constM <;> simp only [commandEnd, pllConfigCmd, withCr, hcheck] <;> rfl
  case pllReset => exact needPll_withCr cu cc rfl
  case pllPush | pedEval =>
    refine needPll_withCr cu cc (congrArg CmdEnd.done ?_)
    rw [noteNonfiniteC, setFlagIf_withCr]
    rfl
  case lfStep | ncoStep =>
    refine needPll_withCr cu cc (congrArg CmdEnd.done ?_)
    rw [noteNonfiniteR, setFlagIf_withCr]
    rfl
  all_goals exact absurd hi (by decide)

/-! ### The commands -/

/-- A command of the clock recovery unit neither reads nor writes the carrier recovery unit (R229). -/
theorem command_withPll {i : Instr} (hi : i ∈ crCommands) (r : Regs R) :
    command N i (withPll pu pc r) = withPll pu pc (command N i r) := by
  rw [command, commandEnd_withPll N pu pc hi, finish_map_withPll, command]

/-- A command of the carrier recovery unit neither reads nor writes the clock recovery unit (R229). -/
theorem command_withCr {i : Instr} (hi : i ∈ pllCommands) (r : Regs R) :
    command N i (withCr cu cc r) = withCr cu cc (command N i r) := by
  rw [command, commandEnd_withCr N cu cc hi, finish_map_withCr, command]

end

/-- Settles O22: the replacement commutes with the command, unit by unit. -/
theorem unitsShareNoState : Obligations.UnitsShareNoState := by
  intro i s t h
  obtain rfl := eq_of_exec h
  refine ⟨fun hi u c => ?_, fun hi u c => ?_⟩
  · rw [exec_eq_command]
    exact congrArg (fun q => Host.Outcome.next { s with regs := q }) (command_withPll binary32 u c hi s.regs)
  · rw [exec_eq_command]
    exact congrArg (fun q => Host.Outcome.next { s with regs := q }) (command_withCr binary32 u c hi s.regs)

end Sys2Proof.Machine
end

section
/-! The carrier recovery PLL (45_carrier_pll.md): the legal configurations, what a commit and a push write, the soundness
of the configured unit, repeatable streams, and phase tracking over the reals. -/

namespace Sys2Proof.Machine

/-! ### The legal configurations -/

/-- A decision-aware mode admits `CONST_M` from 1 to 64 (10_state.md R45). -/
theorem constBad_eq_false_iff (m : Word) : constBad m = false ↔ 1 ≤ m.toNat ∧ m.toNat ≤ 64 := by
  simp only [constBad, Bool.or_eq_false_iff, decide_eq_false_iff_not, not_lt]

/-- The check passes when each of its tests does (R221). -/
theorem pllCheck_eq_none_iff {R : Type} (N : Numerics R) (c : PllConf R) (m : Word) :
    pllCheck N c m = none ↔
      (c.order = 1 ∨ c.order = 2) ∧ c.ped.toNat ≤ 1 ∧ c.outsel.toNat ≤ 1 ∧ pllGainBad N c = false ∧
      (c.ped = 1 → 1 ≤ m.toNat ∧ m.toNat ≤ 64) := by
  simp only [pllCheck, ite_eq_iff, reduceCtorEq, and_false, false_or, and_true, not_and, Bool.not_eq_true,
    constBad_eq_false_iff, not_lt, ne_eq, not_not, ← or_iff_not_imp_left]

/-- Test 4 passes when the gains that the order uses and the offset are finite (R221). -/
theorem pllGainBad_eq_false_iff {R : Type} (N : Numerics R) (c : PllConf R) :
    pllGainBad N c = false ↔
      (c.order = 1 → N.fin c.alpha = true) ∧ (c.order = 2 → N.fin c.bl = true ∧ N.fin c.eta = true) ∧
      N.fin c.w0 = true := by
  simp only [pllGainBad, Bool.or_eq_false_iff, Bool.and_eq_false_imp, decide_eq_true_eq, Bool.not_eq_false',
    Bool.and_eq_true, and_assoc]

/-- Settles O33: the check passes when its tests do, and the gain test on its finite values. -/
theorem pllConfigAdmitsExactlyTheLegal : Obligations.PllConfigAdmitsExactlyTheLegal := by
  intro c m
  simp only [pllCheck_eq_none_iff, pllGainBad_eq_false_iff, binary32_fin, and_assoc]

/-! ### What a commit writes -/

section
variable {R : Type} (N : Numerics R)

/-- A commit of a staging that its check admits (R220). -/
theorem command_pllConfig_of_none {r : Regs R} (h : pllCheck N r.pllStage r.constM = none) :
    command N .pllConfig r = { r with errcode := 0, pll := pllCommit N r } := by
  simp only [command, commandEnd, pllConfigCmd, h, finish_done]

end

/-- The gains of a configuration in binary32, in the order of R200; 0 in first order (R220). -/
theorem pllGains_binary32 (c : PllConf F32) :
    pllGains binary32 c =
      let e2 := f32Mul c.eta c.eta
      let den := f32Add ⟨0x3F800000#32⟩ (f32Mul (f32OfNat 4) e2)
      (if c.order = 2 then f32Div (f32Mul (f32Mul (f32OfNat 16) e2) c.bl) den else F32.zero,
       if c.order = 2 then f32Div (f32Mul (f32OfNat 4) c.bl) den else F32.zero) := by
  by_cases h : c.order = 2
  · simp only [pllGains, if_pos h, lfGains, oneOf_binary32, binary32_add, binary32_mul, binary32_div, binary32_ofNat]
  · simp only [pllGains, if_neg h, zeroOf_binary32]

/-- Settles O30: the commit's own formulas, the gains by cases on the order. -/
theorem pllConfigCommits : Obligations.PllConfigCommits := by
  intro s h
  rw [exec_eq_command, command_pllConfig_of_none binary32 h, pllCommit, pllUnitReset, pllGains_binary32, zeroOf_binary32]

/-! ### What a push writes -/

section
variable {R : Type} (N : Numerics R)

/-- `PLL_CFG_OK = 1`, in the form that the commands test (60_exceptions.md R256). -/
theorem pll_configured_ne_zero {r : Regs R} (hcfg : r.pll.cfgOk = 1) : r.pll.cfgOk ≠ 0 := by
  rw [hcfg]; decide

/-- The unit after a push, with each item of its loop state (R224): the increment that moves the angle moves the phase. -/
theorem pllPushSample_eq (u : PllUnit R) (z : Cx R) :
    pllPushSample N u z =
      let e := ped N u (derotate N u z)
      { u with loop :=
        { theta := wrapPi N (N.add u.loop.theta (lfDelta N u e))
          mu := lfMu N u e
          eprev := e
          phi := wrapPi N (N.add (N.add u.loop.phi u.live.w0) (lfDelta N u e))
          out := pllOutput N u z
          lastE := e
          nin := u.loop.nin + 1 } } := rfl

/-- A push in a configured unit (R224). -/
theorem command_pllPush_configured {r : Regs R} (hcfg : r.pll.cfgOk = 1) :
    command N .pllPush r = { r with
      errcode := 0
      status := if finC N r.opa then r.status else r.status ||| 4#32
      pll := pllPushSample N r.pll (sanitizeC N r.opa) } := by
  rw [command, commandEnd, pllPushCmd, needPll_configured r _ (pll_configured_ne_zero hcfg), finish_done, noteNonfiniteC,
    setFlagIf_eq]
  cases finC N r.opa <;> rfl

end

/-- A sample derotated in binary32 (R225). -/
theorem derotate_binary32 (u : PllUnit F32) (z : Cx F32) :
    derotate binary32 u z =
      let c : Cx F32 := ⟨Config.cos u.loop.phi, Config.sin u.loop.phi⟩
      ⟨f32Sub (f32Mul z.i c.i) (f32Mul z.q (f32Neg c.q)), f32Add (f32Mul z.i (f32Neg c.q)) (f32Mul z.q c.i)⟩ := rfl

/-- Settles O49: the push's own formulas, with the constants by their words. -/
theorem pllPushTracksOneSample : Obligations.PllPushTracksOneSample := by
  intro s hcfg ok z p c y e delta
  have hz : sanitizeC binary32 s.regs.opa = z := sanitizeC_binary32 _
  have hy : derotate binary32 p z = y := derotate_binary32 p z
  rw [exec_eq_command, command_pllPush_configured binary32 hcfg, hz, finC, binary32_fin, pllPushSample_eq]
  simp only [lfMu, pllOutput, show derotate binary32 s.regs.pll z = y from hy, oneOf_binary32]
  rfl

/-! ### The soundness of the configured unit -/

/-- `PllSound` speaks of the PLL unit's configuration and of no loop state. -/
theorem PllSound.of_loop {R : Type} {N : Numerics R} {r t : Regs R} (hr : PllSound N r)
    (h : ∃ l, t.pll = { r.pll with loop := l }) : PllSound N t := by
  obtain ⟨l, h⟩ := h
  constructor <;> rw [h]
  exacts [hr.cfgOk_bit, hr.admitted, hr.gains_eq]

section
variable {R : Type} (N : Numerics R)

/-- A command of the clock recovery unit leaves the PLL unit alone: putting the unit back changes nothing (R229). -/
theorem command_pll_of_crCommand {i : Instr} (hi : i ∈ crCommands) (r : Regs R) : (command N i r).pll = r.pll := by
  have hback : withPll r.pll r.pllStage r = r := rfl
  have h := congrArg Regs.pll (command_withPll N r.pll r.pllStage hi r)
  rwa [hback] at h

/-- The end of a command writes no unit. -/
theorem finish_pll (w : Word) (e : CmdEnd R) : (finish w e).pll = e.regs.pll := by cases e <;> rfl

/-- A PLL command other than the commit writes no more of the unit than its loop state (R222, R224; 43_ped.md R185;
44_loop_filter_nco.md R203, R206). -/
theorem command_pll_loop_only {i : Instr} (hi : i ∈ pllCommands) (hne : i ≠ .pllConfig) (r : Regs R) :
    ∃ l, (command N i r).pll = { r.pll with loop := l } := by
  rw [command, finish_pll]
  cases i
  case pllConfig => contradiction
  case pllReset | pllPush | lfStep | ncoStep =>
    exact needPll_elim (P := fun q => ∃ l, q.pll = { r.pll with loop := l }) ⟨_, rfl⟩ ⟨_, rfl⟩
  case pedEval => exact ⟨r.pll.loop, needPll_keeps Regs.pll (noteNonfiniteC_pll N _ r)⟩
  all_goals exact absurd hi (by decide)

/-- A commit leaves the unit sound: unconfigured, or with the staging that it admitted and that staging's gains (R220,
R221). -/
theorem pllSound_pllConfig (r : Regs R) : PllSound N (command N .pllConfig r) := by
  cases h : pllCheck N r.pllStage r.constM with
  | none =>
    rw [command_pllConfig_of_none N h]
    exact { cfgOk_bit := .inr rfl, admitted := fun _ => h, gains_eq := fun _ => rfl }
  | some code =>
    rw [command_pllConfig_of_some N h]
    exact pllSound_of_unconfigured rfl

/-- Every command but `CORE_RESET` keeps the unit sound. -/
theorem command_pllSound {i : Instr} (hi : i ≠ .coreReset) {r : Regs R} (hr : PllSound N r) :
    PllSound N (command N i r) := by
  cases i
  case coreReset => contradiction
  case nop => exact hr.of_loop ⟨_, rfl⟩
  case crConfig | crReset | crPush | itrpCoef | itrpEval | tedEval =>
    exact hr.of_loop ⟨_, command_pll_of_crCommand N (by decide) r⟩
  case pllConfig => exact pllSound_pllConfig N r
  case pllReset | pllPush | pedEval | lfStep | ncoStep =>
    exact hr.of_loop (command_pll_loop_only N (by decide) (by decide) r)

end

/-- Settles O26: a commit leaves an admitted configuration with its gains or none, and nothing else writes either. -/
theorem pllUnitStaysSound : Obligations.PllUnitStaysSound :=
  keptByStep_of (pllSound_of_unconfigured rfl)
    (fun _ _ _ _ hr hstore =>
      have ⟨_, hpll, _⟩ := storeReg_keeps hstore
      hr.of_loop ⟨_, hpll⟩)
    (fun _ hr => hr.of_loop ⟨_, rfl⟩)
    (fun _ _ hi hr => command_pllSound binary32 hi hr) (fun _ _ hr => hr.of_loop ⟨_, rfl⟩)

/-! ### Sequences of commands, in the unit alone -/

section
variable {R : Type} (N : Numerics R)

/-- The unit after one `LF_STEP` with the error `e` and one `NCO_STEP` with the increment it returned (R228). -/
def filterStep (u : PllUnit R) (e : R) : PllUnit R :=
  ncoAdvance N (lfUpdate N u (sanitizeR N e)) (sanitizeR N (lfDelta N u (sanitizeR N e)))

variable {r : Regs R} (hcfg : r.pll.cfgOk = 1)
include hcfg

/-- A unit reset of a configured unit (R222). -/
theorem command_pllReset_pll : (command N .pllReset r).pll = pllUnitReset N r.pll := by
  rw [command_pllReset_configured N (pll_configured_ne_zero hcfg)]

/-- A push of a configured unit (R224). -/
theorem command_pllPush_pll (z : Cx R) :
    (command N .pllPush { r with opa := z }).pll = pllPushSample N r.pll (sanitizeC N z) := by
  rw [command_pllPush_configured N (r := { r with opa := z }) hcfg]

/-- `LF_STEP` of a configured unit (44_loop_filter_nco.md R203). -/
theorem command_lfStep_configured : command N .lfStep r = { r with
    errcode := 0
    status := if N.fin r.opb then r.status else r.status ||| 4#32
    resE := lfDelta N r.pll (sanitizeR N r.opb)
    pll := lfUpdate N r.pll (sanitizeR N r.opb) } := by
  rw [command, commandEnd, lfStepCmd_configured N hcfg, finish_done]

/-- `NCO_STEP` of a configured unit (44_loop_filter_nco.md R206). -/
theorem command_ncoStep_pll : (command N .ncoStep r).pll = ncoAdvance N r.pll (sanitizeR N r.opb) := by
  rw [command, commandEnd, ncoStepCmd_configured N hcfg, finish_done]

/-- Pushes act on a configured unit sample by sample, whatever else the core holds (R224, R229). -/
theorem pllPushAll_pll (zs : List (Cx R)) :
    (pllPushAll N r zs).pll = zs.foldl (fun u z => pllPushSample N u (sanitizeC N z)) r.pll := by
  induction zs generalizing r with
  | nil => rfl
  | cons z zs ih =>
    have hpush := command_pllPush_pll N hcfg z
    rw [pllPushAll, List.foldl_cons, ← pllPushAll, ih (by rw [hpush]; exact hcfg), hpush, List.foldl_cons]

/-- Steps of the filter and the NCO act on a configured unit error by error, whatever else the core holds (R228). -/
theorem filterAll_pll (es : List R) : (filterAll N r es).pll = es.foldl (filterStep N) r.pll := by
  induction es generalizing r with
  | nil => rfl
  | cons e es ih =>
    have hlf := command_lfStep_configured N (r := { r with opb := e }) hcfg
    have hstep : (command N .ncoStep
        { command N .lfStep { r with opb := e } with
          opb := (command N .lfStep { r with opb := e }).resE }).pll = filterStep N r.pll e := by
      rw [hlf]
      exact command_ncoStep_pll N hcfg
    rw [filterAll, List.foldl_cons, ← filterAll, ih (by rw [hstep]; exact hcfg), hstep, List.foldl_cons]

end

/-- Settles O50: a unit reset of equal configurations gives equal units, and pushes act on the unit alone. -/
theorem pllResetMakesStreamsRepeatable : Obligations.PllResetMakesStreamsRepeatable := by
  intro r1 r2 zs hcfg1 hcfg2 hlive hgamma hrho hcm hcpt
  have hreset : pllUnitReset binary32 r1.pll = pllUnitReset binary32 r2.pll := by
    simp only [pllUnitReset, hcfg1, hcfg2, hlive, hgamma, hrho, hcm, hcpt]
  have hpll1 := command_pllReset_pll binary32 hcfg1
  have hpll2 := command_pllReset_pll binary32 hcfg2
  rw [pllPushAll_pll binary32 (by rw [hpll1]; exact hcfg1), pllPushAll_pll binary32 (by rw [hpll2]; exact hcfg2), hpll1,
    hpll2, hreset]

/-! ### Phase tracking over the reals -/

/-- A unit with the offset `w0` whose phase tracks its angle after `n` updates (R228); the angle is wrapped (R202). -/
structure TracksPhase (w0 : ℝ) (n : Nat) (u : PllUnit ℝ) : Prop where
  /-- The live offset. -/
  w0_eq : u.live.w0 = w0
  /-- The phase is the angle plus `n` offsets, wrapped. -/
  phi_eq : u.loop.phi = wrapPi exact (u.loop.theta + n * w0)
  /-- The angle is wrapped. -/
  theta_wrapped : wrapPi exact u.loop.theta = u.loop.theta

/-- Wrapping twice is wrapping once. -/
theorem wrapPi_exact_wrapPi (p : ℝ) : wrapPi exact (wrapPi exact p) = wrapPi exact p :=
  wrapPi_exact_of_mem (wrapPi_exact_bounds p)

/-- 0 is a wrapped angle. -/
theorem wrapPi_exact_zero : wrapPi exact 0 = 0 :=
  wrapPi_exact_of_mem ⟨neg_nonpos.2 Real.pi_pos.le, Real.pi_pos⟩

/-- A unit reset puts phase and angle at 0 (R223). -/
theorem tracksPhase_pllUnitReset (u : PllUnit ℝ) : TracksPhase u.live.w0 0 (pllUnitReset exact u) where
  w0_eq := rfl
  phi_eq := by simp [PllLoop.zeroed, wrapPi_exact_zero]
  theta_wrapped := by simp [PllLoop.zeroed, wrapPi_exact_zero]

section
variable {w0 : ℝ} {n : Nat} {u : PllUnit ℝ} (h : TracksPhase w0 n u)
include h

/-- An update adds the same increment to the angle and to the phase, and the offset to the phase (R224). -/
theorem TracksPhase.pllTrack (e : ℝ) : TracksPhase w0 (n + 1) (pllTrack exact u e) where
  w0_eq := h.w0_eq
  phi_eq := by
    have hphi : (Machine.pllTrack exact u e).loop.phi = wrapPi exact (u.loop.phi + u.live.w0 + lfDelta exact u e) := rfl
    have htheta : (Machine.pllTrack exact u e).loop.theta = wrapPi exact (u.loop.theta + lfDelta exact u e) := rfl
    rw [hphi, htheta, h.phi_eq, h.w0_eq, add_assoc, wrapPi_exact_wrapPi_add, wrapPi_exact_wrapPi_add, Nat.cast_succ]
    congr 1
    ring
  theta_wrapped := wrapPi_exact_wrapPi _

/-- A push updates the loop by its own phase error (R224). -/
theorem TracksPhase.pllPushSample (z : Cx ℝ) : TracksPhase w0 (n + 1) (pllPushSample exact u z) :=
  have hu := h.pllTrack (ped exact u (derotate exact u z))
  ⟨hu.w0_eq, hu.phi_eq, hu.theta_wrapped⟩

/-- `LF_STEP` and `NCO_STEP` with the returned increment are one update: no value is replaced in `Exact`. -/
theorem TracksPhase.filterStep (e : ℝ) : TracksPhase w0 (n + 1) (filterStep exact u e) := h.pllTrack e

/-- Updates in a row are counted by their number. -/
theorem TracksPhase.foldl {α : Type} {f : PllUnit ℝ → α → PllUnit ℝ}
    (hf : ∀ n u a, TracksPhase w0 n u → TracksPhase w0 (n + 1) (f u a)) (as : List α) :
    TracksPhase w0 (n + as.length) (as.foldl f u) := by
  induction as generalizing n u with
  | nil => exact h
  | cons a as ih =>
    rw [List.foldl_cons, List.length_cons, ← Nat.add_assoc, Nat.add_right_comm]
    exact ih (hf n u a h)

/-- Without an offset the phase is the angle. -/
theorem TracksPhase.phi_eq_theta (h0 : w0 = 0) : u.loop.phi = u.loop.theta := by
  rw [h.phi_eq, h0, mul_zero, add_zero, h.theta_wrapped]

end

/-- Settles O58: the phase tracks the angle from the reset on, update by update in either sequence. -/
theorem exactPhaseTracking : Obligations.ExactPhaseTracking := by
  intro r zs es hcfg t v
  have hpll := command_pllReset_pll exact hcfg
  have hcfg' : (command exact .pllReset r).pll.cfgOk = 1 := by rw [hpll]; exact hcfg
  have hreset := tracksPhase_pllUnitReset r.pll
  have ht : TracksPhase r.pll.live.w0 zs.length t.pll := by
    rw [pllPushAll_pll exact hcfg', hpll, ← Nat.zero_add zs.length]
    exact hreset.foldl (fun _ _ z h => h.pllPushSample z) zs
  have hv : TracksPhase r.pll.live.w0 es.length v.pll := by
    rw [filterAll_pll exact hcfg', hpll, ← Nat.zero_add es.length]
    exact hreset.foldl (fun _ _ e h => h.filterStep e) es
  exact ⟨ht.phi_eq, hv.phi_eq, fun h0 => ⟨ht.phi_eq_theta h0, hv.phi_eq_theta h0⟩⟩

end Sys2Proof.Machine
end

section
/-! The control commands (46_control.md), and hardware reset, which ends where `CORE_RESET` does. -/

namespace Sys2Proof.Machine

/-! ### The commands -/

/-- `NOP` has no effect but that of every normal end (R240; 30_encoding.md R80). -/
theorem command_nop {R : Type} (N : Numerics R) (r : Regs R) : command N .nop r = { r with errcode := 0 } :=
  finish_done (encode .nop) r

/-- `CORE_RESET` leaves the registers of reset and does not touch the host's side (R241). -/
theorem exec_coreReset (s : State) : exec .coreReset s = .next { s with regs := State.reset.regs } := by
  rw [exec_eq_command, command_coreReset]

/-- Settles O11: both commands through the registers that they leave. -/
theorem controlCommandsEffects : Obligations.ControlCommandsEffects := by
  refine fun s => ⟨?_, exec_coreReset s⟩
  rw [exec_eq_command, command_nop]

/-! ### Hardware reset -/

/-- The registers that a reset pulse leaves are those of reset (10_state.md R47). -/
theorem coreReset_binary32 : coreReset binary32 = State.reset.regs :=
  congrArg Regs.zeroed zeroOf_binary32

/-- Serving a reset pulse leaves the registers of reset and returns no word (70_reset_and_hazards.md R280). -/
theorem serve_resetPulse (r : Regs F32) : serve r .resetPulse = .access State.reset.regs none :=
  congrArg (Served.access · none) coreReset_binary32

/-- A step that serves a reset pulse leaves the registers of reset. -/
theorem step_of_resetPulse {s : State} {rest : List HostTxn} (hp : s.pending = .resetPulse :: rest) :
    step s = .next { regs := State.reset.regs, pending := rest, reply := none } :=
  step_of_access hp (serve_resetPulse s.regs)

/-- A step that serves a write of the `CORE_RESET` word to `CMD` leaves the registers of reset. -/
theorem step_of_cmdWrite_coreReset {s : State} {rest : List HostTxn} {w : Word} (hp : s.pending = cmdWrite w :: rest)
    (hw : decode w = .ok .coreReset) :
    step s = .next { regs := State.reset.regs, pending := rest, reply := none } := by
  have hserve : serve s.regs (cmdWrite w) = .command w := serve_write_cmd s.regs w rfl
  rw [step_of_command hp hserve hw, exec_coreReset]

/-- Settles O12: both steps end in the registers of reset, with the same transactions left. -/
theorem hardwareResetIsCoreReset : Obligations.HardwareResetIsCoreReset := by
  intro s rest w hp hw
  have hpulse := step_of_resetPulse hp
  have hword := step_of_cmdWrite_coreReset (s := { s with pending := cmdWrite w :: rest }) rfl hw
  exact ⟨hpulse.trans hword.symm, hpulse⟩

end Sys2Proof.Machine
end

section
/-! Command errors and the completion of steps (60_exceptions.md): when a rule raises and over which registers, the
codes of each command, the unconfigured unit, and a step that always answers. -/

namespace Sys2Proof.Machine

section
variable {R : Type} (N : Numerics R)

/-! ### When a command's rule raises -/

/-- The errors of a command's rule at the registers `r`: the command, its error, and the registers on top of which the
error is raised (R251, R253, R256). -/
inductive RaisesAt (r : Regs R) : Instr → ErrCode → Regs R → Prop
  /-- The clock recovery unit is not configured. -/
  | crNotConfigured {i : Instr} (hi : i ∈ crCommands) (hne : i ≠ .crConfig) (h0 : r.cr.derived.cfgOk = 0) :
      RaisesAt r i .crNotConfigured r
  /-- The carrier recovery unit is not configured. -/
  | pllNotConfigured {i : Instr} (hi : i ∈ pllCommands) (hne : i ≠ .pllConfig) (h0 : r.pll.cfgOk = 0) :
      RaisesAt r i .pllNotConfigured r
  /-- `tau` is out of range in a configured unit (40_interpolator.md R108, R109). -/
  | tauRange {i : Instr} (hi : i = .itrpCoef ∨ i = .itrpEval) (hcfg : r.cr.derived.cfgOk ≠ 0)
      (htau : tauBad N r.opb = true) : RaisesAt r i .tauRange r
  /-- The staging fails the check of `CR_CONFIG` (42_clock_recovery.md R150). -/
  | crConfig {code : ErrCode} (hcheck : crCheck N r.crStage r.constM = some code) :
      RaisesAt r .crConfig code { r with cr := { r.cr with derived := { r.cr.derived with cfgOk := 0 } } }
  /-- The staging fails the check of `PLL_CONFIG` (45_carrier_pll.md R220). -/
  | pllConfig {code : ErrCode} (hcheck : pllCheck N r.pllStage r.constM = some code) :
      RaisesAt r .pllConfig code { r with pll := { r.pll with cfgOk := 0 } }

/-- A rule that needs the clock recovery unit raises when the unit is not configured, or by itself. -/
theorem needCr_eq_raise_iff {r q : Regs R} {b : CmdEnd R} {code : ErrCode} :
    needCr r b = .raise code q ↔
      (r.cr.derived.cfgOk = 0 ∧ code = .crNotConfigured ∧ q = r) ∨ (r.cr.derived.cfgOk ≠ 0 ∧ b = .raise code q) := by
  by_cases h0 : r.cr.derived.cfgOk = 0
  · simp [needCr_unconfigured r b h0, h0, eq_comm]
  · rw [needCr_configured r b h0, or_iff_right fun h => h0 h.1, and_iff_right h0]

/-- The PLL unit's twin of `needCr_eq_raise_iff`. -/
theorem needPll_eq_raise_iff {r q : Regs R} {b : CmdEnd R} {code : ErrCode} :
    needPll r b = .raise code q ↔
      (r.pll.cfgOk = 0 ∧ code = .pllNotConfigured ∧ q = r) ∨ (r.pll.cfgOk ≠ 0 ∧ b = .raise code q) := by
  by_cases h0 : r.pll.cfgOk = 0
  · simp [needPll_unconfigured r b h0, h0, eq_comm]
  · rw [needPll_configured r b h0, or_iff_right fun h => h0 h.1, and_iff_right h0]

/-- The rule of a command raises for one of the listed errors, on top of the listed registers. -/
theorem raisesAt_of_commandEnd {i : Instr} {r q : Regs R} {code : ErrCode} (h : commandEnd N i r = .raise code q) :
    RaisesAt N r i code q := by
  cases i
  case nop | coreReset => cases h
  case crConfig =>
    simp only [commandEnd, crConfigCmd] at h
    split at h
    case h_1 hcheck => cases h; exact .crConfig hcheck
    case h_2 => cases h
  case pllConfig =>
    simp only [commandEnd, pllConfigCmd] at h
    split at h
    case h_1 hcheck => cases h; exact .pllConfig hcheck
    case h_2 => cases h
  case itrpCoef | itrpEval =>
    obtain ⟨h0, rfl, rfl⟩ | ⟨hcfg, h⟩ := needCr_eq_raise_iff.1 h
    · exact .crNotConfigured (by decide) (by decide) h0
    · split at h
      case isTrue htau => cases h; exact .tauRange (by decide) hcfg htau
      case isFalse => cases h
  case crReset | crPush | tedEval =>
    obtain ⟨h0, rfl, rfl⟩ | ⟨-, h⟩ := needCr_eq_raise_iff.1 h
    · exact .crNotConfigured (by decide) (by decide) h0
    · cases h
  case pllReset | pllPush | pedEval | lfStep | ncoStep =>
    obtain ⟨h0, rfl, rfl⟩ | ⟨-, h⟩ := needPll_eq_raise_iff.1 h
    · exact .pllNotConfigured (by decide) (by decide) h0
    · cases h

/-- The rule of a command of an unconfigured clock recovery unit raises, but for the commit's (R254, R256). -/
theorem commandEnd_of_cr_unconfigured {i : Instr} {r : Regs R} (h0 : r.cr.derived.cfgOk = 0) (hi : i ∈ crCommands)
    (hne : i ≠ .crConfig) : commandEnd N i r = .raise .crNotConfigured r := by
  cases i
  case crConfig => contradiction
  case crReset | crPush | itrpCoef | itrpEval | tedEval => exact needCr_unconfigured r _ h0
  all_goals exact absurd hi (by decide)

/-- The rule of a command of an unconfigured PLL unit raises, but for the commit's (R254, R256). -/
theorem commandEnd_of_pll_unconfigured {i : Instr} {r : Regs R} (h0 : r.pll.cfgOk = 0) (hi : i ∈ pllCommands)
    (hne : i ≠ .pllConfig) : commandEnd N i r = .raise .pllNotConfigured r := by
  cases i
  case pllConfig => contradiction
  case pllReset | pllPush | pedEval | lfStep | ncoStep => exact needPll_unconfigured r _ h0
  all_goals exact absurd hi (by decide)

/-! ### What an error leaves -/

/-- The three effects of a command error, written out (R252). -/
theorem raiseCmdError_eq (code : ErrCode) (w : Word) (r : Regs R) :
    raiseCmdError code w r =
      { r with errcode := errCodeWord code, errcmd := w, status := r.status ||| 1#32 } := rfl

/-- No rule writes `ERRCMD` before the command ends, but for `CORE_RESET`'s (R252; 46_control.md R241). -/
theorem commandEnd_errcmd {i : Instr} (hi : i ≠ .coreReset) (r : Regs R) :
    (commandEnd N i r).regs.errcmd = r.errcmd := by
  cases i
  case coreReset => contradiction
  case nop => rfl
  case crConfig =>
    simp only [commandEnd, crConfigCmd]
    split <;> rfl
  case pllConfig =>
    simp only [commandEnd, pllConfigCmd]
    split <;> rfl
  case itrpCoef | itrpEval =>
    refine needCr_keeps Regs.errcmd ?_
    split <;> simp only [regs_raise, regs_done]
  case crReset | tedEval => exact needCr_keeps Regs.errcmd rfl
  case crPush =>
    refine needCr_keeps Regs.errcmd ?_
    simp only [regs_done, awaitOrEmit_errcmd, accGuard_errcmd, takeSample_errcmd, noteNonfiniteC_errcmd]
  case pllReset => exact needPll_keeps Regs.errcmd rfl
  case pllPush | pedEval => exact needPll_keeps Regs.errcmd (noteNonfiniteC_errcmd N _ r)
  case lfStep | ncoStep => exact needPll_keeps Regs.errcmd (noteNonfiniteR_errcmd N _ r)

/-- Every error leaves `STATUS` to the error end, and the registers as they were but for a failed commit's `CFG_OK`
(R253). -/
theorem RaisesAt.base {r q : Regs R} {i : Instr} {code : ErrCode} (h : RaisesAt N r i code q) :
    q.status = r.status ∧
    ((i ≠ .crConfig ∧ i ≠ .pllConfig ∧ q = r) ∨
     (i = .crConfig ∧ q = { r with cr := { r.cr with derived := { r.cr.derived with cfgOk := 0 } } }) ∨
     (i = .pllConfig ∧ q = { r with pll := { r.pll with cfgOk := 0 } })) := by
  cases h with
  | crNotConfigured hi hne =>
    refine ⟨rfl, .inl ⟨hne, ?_, rfl⟩⟩
    rintro rfl
    exact absurd hi (by decide)
  | pllNotConfigured hi hne =>
    refine ⟨rfl, .inl ⟨?_, hne, rfl⟩⟩
    rintro rfl
    exact absurd hi (by decide)
  | tauRange hi => exact ⟨rfl, .inl (by rcases hi with rfl | rfl <;> simp)⟩
  | crConfig => exact ⟨rfl, .inr (.inl ⟨rfl, rfl⟩)⟩
  | pllConfig => exact ⟨rfl, .inr (.inr ⟨rfl, rfl⟩)⟩

/-! ### The codes of each command -/

/-- The errors that the table lists for a command (R251). -/
def listedErrors : Instr → List ErrCode
  | .nop | .coreReset => []
  | .crReset | .crPush | .tedEval => [.crNotConfigured]
  | .itrpCoef | .itrpEval => [.crNotConfigured, .tauRange]
  | .pllReset | .pllPush | .pedEval | .lfStep | .ncoStep => [.pllNotConfigured]
  | .crConfig => [.cfgItrp, .cfgTed, .cfgWlen, .cfgSlen, .cfgLoop, .cfgConst]
  | .pllConfig => [.cfgConst, .cfgPllOrder, .cfgPed, .cfgOutsel, .cfgPllGain]

/-- The check of `CR_CONFIG` reports configuration errors (42_clock_recovery.md R151). -/
theorem crCheck_some_listed {c : CrConf R} {m : Word} {code : ErrCode} (h : crCheck N c m = some code) :
    code ∈ listedErrors .crConfig := by
  unfold crCheck at h
  split_ifs at h
  all_goals
    cases h
    decide

/-- The check of `PLL_CONFIG` reports configuration errors (45_carrier_pll.md R221). -/
theorem pllCheck_some_listed {c : PllConf R} {m : Word} {code : ErrCode} (h : pllCheck N c m = some code) :
    code ∈ listedErrors .pllConfig := by
  unfold pllCheck at h
  split_ifs at h
  all_goals
    cases h
    decide

/-- A command's rule raises no error but the listed ones. -/
theorem RaisesAt.listed {r q : Regs R} {i : Instr} {code : ErrCode} (h : RaisesAt N r i code q) :
    code ∈ listedErrors i := by
  cases h with
  | crNotConfigured hi hne =>
    have hall : ∀ j ∈ crCommands, j ≠ .crConfig → ErrCode.crNotConfigured ∈ listedErrors j := by decide
    exact hall i hi hne
  | pllNotConfigured hi hne =>
    have hall : ∀ j ∈ pllCommands, j ≠ .pllConfig → ErrCode.pllNotConfigured ∈ listedErrors j := by decide
    exact hall i hi hne
  | tauRange hi => rcases hi with rfl | rfl <;> decide
  | crConfig hcheck => exact crCheck_some_listed N hcheck
  | pllConfig hcheck => exact pllCheck_some_listed N hcheck

/-- `ERRCODE` after a command is 0 or the code of one of its listed errors (R251, R252). -/
theorem command_errcode_mem (i : Instr) (r : Regs R) :
    (command N i r).errcode.toNat ∈ 0 :: (listedErrors i).map fun code => (errCodeWord code).toNat := by
  rw [command]
  cases h : commandEnd N i r with
  | done q => exact List.mem_cons_self
  | raise code q => exact List.mem_cons_of_mem 0 (List.mem_map_of_mem (raisesAt_of_commandEnd N h).listed)

end

/-! ### The commands -/

/-- Settles O7: a rule that returns leaves `ERRCMD` alone, and an error end writes its three registers on top of the
registers that `RaisesAt` names. -/
theorem commandErrorsArePrecise : Obligations.CommandErrorsArePrecise := by
  intro i s
  refine ⟨_, exec_eq_command i s, rfl, rfl, ?_⟩
  rw [command]
  cases h : commandEnd binary32 i s.regs with
  | done q =>
    refine .inl ⟨rfl, fun hi => ?_⟩
    have hkeep := commandEnd_errcmd binary32 hi s.regs
    rwa [h] at hkeep
  | raise code q =>
    obtain ⟨hstatus, hbase⟩ := (raisesAt_of_commandEnd binary32 h).base
    exact .inr ⟨code, q, by rw [finish_raise, raiseCmdError_eq, hstatus], hbase⟩

/-- Settles O8: the codes of the listed errors, command by command. -/
theorem eachCommandLeavesOnlyItsErrorCodes : Obligations.EachCommandLeavesOnlyItsErrorCodes := by
  intro i s t h
  obtain rfl := eq_of_exec h
  have hmem := command_errcode_mem binary32 i s.regs
  cases i <;> exact hmem

/-- Settles O9: the rule raises before it reads an operand. -/
theorem unconfiguredUnitRefusesItsCommands : Obligations.UnconfiguredUnitRefusesItsCommands := by
  refine fun s => ⟨fun h0 i hi hne => ?_, fun h0 i hi hne => ?_⟩
  · rw [exec_eq_command, command, commandEnd_of_cr_unconfigured binary32 h0 hi hne, finish_raise, raiseCmdError_eq]
    rfl
  · rw [exec_eq_command, command, commandEnd_of_pll_unconfigured binary32 h0 hi hne, finish_raise, raiseCmdError_eq]
    rfl

/-! ### The completion of steps -/

/-- With no transaction pending a step changes nothing (20_memory.md R71). -/
theorem step_of_idle {s : State} (hp : s.pending = []) : step s = .next s := by
  simp [step, hp]

/-- Settles O6: each of the four things that a step can do ends in a next state. -/
theorem everyStepAnswersANextState : Obligations.EveryStepAnswersANextState := by
  intro s
  cases hp : s.pending with
  | nil => exact ⟨s, step_of_idle hp⟩
  | cons x rest =>
    cases hserve : serve s.regs x with
    | access r reply => exact ⟨_, step_of_access hp hserve⟩
    | command w =>
      cases hw : decode w with
      | ok i => exact ⟨_, (step_of_command hp hserve hw).trans (exec_eq_command i _)⟩
      | error e => exact ⟨_, step_of_illegal hp hserve hw⟩

end Sys2Proof.Machine
end

section
/-! What the leaf commands leave unchanged (70_reset_and_hazards.md R288; 10_state.md R22): each writes its results and
the items that its rule names. -/

namespace Sys2Proof.Machine

section
variable {R : Type} (N : Numerics R)

/-! ### The other unit, and the end of a command -/

/-- A command of the carrier recovery unit leaves the clock recovery unit alone: putting the unit back changes nothing
(45_carrier_pll.md R229). -/
theorem command_cr_of_pllCommand {i : Instr} (hi : i ∈ pllCommands) (r : Regs R) : (command N i r).cr = r.cr := by
  have hback : withCr r.cr r.crStage r = r := rfl
  have h := congrArg Regs.cr (command_withCr N r.cr r.crStage hi r)
  rwa [hback] at h

/-- The end of a command writes no result (30_encoding.md R80; 60_exceptions.md R252). -/
theorem finish_results (w : Word) (e : CmdEnd R) : (finish w e).res = e.regs.res ∧ (finish w e).resE = e.regs.resE := by
  cases e <;> exact ⟨rfl, rfl⟩

/-- What a command leaves in `RES` is what its rule leaves there. -/
theorem command_res (i : Instr) (r : Regs R) : (command N i r).res = (commandEnd N i r).regs.res :=
  (finish_results _ _).1

/-- What a command leaves in `RES_E` is what its rule leaves there. -/
theorem command_resE (i : Instr) (r : Regs R) : (command N i r).resE = (commandEnd N i r).regs.resE :=
  (finish_results _ _).2

/-- What a command leaves in the clock recovery unit is what its rule leaves there. -/
theorem command_cr (i : Instr) (r : Regs R) : (command N i r).cr = (commandEnd N i r).regs.cr := finish_cr _ _

/-- What a command leaves in the PLL unit is what its rule leaves there. -/
theorem command_pll (i : Instr) (r : Regs R) : (command N i r).pll = (commandEnd N i r).regs.pll := finish_pll _ _

/-! ### The clock recovery unit's leaf commands -/

/-- `ITRP_COEF` writes `COEF` and no result (40_interpolator.md R108). -/
theorem command_itrpCoef_frame (r : Regs R) :
    (command N .itrpCoef r).cr = { r.cr with coef := (command N .itrpCoef r).cr.coef } ∧
    (command N .itrpCoef r).res = r.res ∧ (command N .itrpCoef r).resE = r.resE := by
  rw [command_cr, command_res, command_resE]
  refine needCr_elim (P := fun q => q.cr = { r.cr with coef := q.cr.coef } ∧ q.res = r.res ∧ q.resE = r.resE)
    ⟨rfl, rfl, rfl⟩ ?_
  split <;> simp only [regs_raise, regs_done, and_self]

/-- `ITRP_EVAL` writes `RES` alone (40_interpolator.md R109). -/
theorem command_itrpEval_frame (r : Regs R) :
    (command N .itrpEval r).cr = r.cr ∧ (command N .itrpEval r).resE = r.resE := by
  rw [command_cr, command_resE]
  refine needCr_elim (P := fun q => q.cr = r.cr ∧ q.resE = r.resE) ⟨rfl, rfl⟩ ?_
  split <;> exact ⟨rfl, rfl⟩

/-- `TED_EVAL` writes `RES_E` alone (41_ted.md R137). -/
theorem command_tedEval_frame (r : Regs R) : (command N .tedEval r).cr = r.cr ∧ (command N .tedEval r).res = r.res := by
  rw [command_cr, command_res]
  exact needCr_elim (P := fun q => q.cr = r.cr ∧ q.res = r.res) ⟨rfl, rfl⟩ ⟨rfl, rfl⟩

/-! ### The carrier recovery unit's leaf commands -/

/-- `PED_EVAL` writes nothing of its unit (43_ped.md R185). -/
theorem command_pedEval_pll (r : Regs R) : (command N .pedEval r).pll = r.pll := by
  rw [command_pll]
  exact needPll_keeps Regs.pll (noteNonfiniteC_pll N _ r)

/-- `LF_STEP` writes the loop filter's state and leaves `RES` (44_loop_filter_nco.md R203). -/
theorem command_lfStep_frame (r : Regs R) :
    (command N .lfStep r).res = r.res ∧
    (command N .lfStep r).pll = { r.pll with loop := { r.pll.loop with
      theta := (command N .lfStep r).pll.loop.theta
      mu := (command N .lfStep r).pll.loop.mu
      eprev := (command N .lfStep r).pll.loop.eprev } } := by
  rw [command_res, command_pll]
  exact needPll_elim
    (P := fun q => q.res = r.res ∧ q.pll = { r.pll with loop := { r.pll.loop with
      theta := q.pll.loop.theta, mu := q.pll.loop.mu, eprev := q.pll.loop.eprev } })
    ⟨rfl, rfl⟩ ⟨noteNonfiniteR_res N _ r, rfl⟩

/-- `NCO_STEP` writes the phase and leaves `RES_E` (44_loop_filter_nco.md R206). -/
theorem command_ncoStep_frame (r : Regs R) :
    (command N .ncoStep r).resE = r.resE ∧
    (command N .ncoStep r).pll =
      { r.pll with loop := { r.pll.loop with phi := (command N .ncoStep r).pll.loop.phi } } := by
  rw [command_resE, command_pll]
  exact needPll_elim
    (P := fun q => q.resE = r.resE ∧ q.pll = { r.pll with loop := { r.pll.loop with phi := q.pll.loop.phi } })
    ⟨rfl, rfl⟩ ⟨noteNonfiniteR_resE N _ r, rfl⟩

end

/-- Settles O23: each command's own frame, with the isolation of the other unit. -/
theorem leafCommandsFrame : Obligations.LeafCommandsFrame := by
  intro i s t h
  obtain rfl := eq_of_exec h
  refine ⟨?itrpCoef, ?itrpEval, ?tedEval, ?pedEval, ?lfStep, ?ncoStep⟩ <;> rintro rfl
  case itrpCoef =>
    obtain ⟨hcr, hres, hresE⟩ := command_itrpCoef_frame binary32 s.regs
    exact ⟨hcr, command_pll_of_crCommand binary32 (by decide) _, hres, hresE⟩
  case itrpEval =>
    obtain ⟨hcr, hresE⟩ := command_itrpEval_frame binary32 s.regs
    exact ⟨hcr, command_pll_of_crCommand binary32 (by decide) _, hresE⟩
  case tedEval =>
    obtain ⟨hcr, hres⟩ := command_tedEval_frame binary32 s.regs
    exact ⟨hcr, command_pll_of_crCommand binary32 (by decide) _, hres⟩
  case pedEval => exact ⟨command_cr_of_pllCommand binary32 (by decide) _, command_pedEval_pll binary32 _⟩
  case lfStep => exact ⟨command_cr_of_pllCommand binary32 (by decide) _, command_lfStep_frame binary32 _⟩
  case ncoStep => exact ⟨command_cr_of_pllCommand binary32 (by decide) _, command_ncoStep_frame binary32 _⟩

end Sys2Proof.Machine
end
